-- ==== Sys2Proof/Word.lean ====
section
/-! DEFINITION. The word types of the echopay CORE (spec 00_scope.md R9, R10: registers are 32 bits wide and unsigned,
buffers hold bytes, the nonce is 16 bits). -/

namespace Sys2Proof

/-- One byte of a buffer or of a packet, 0 to 255 (R10). -/
abbrev Byte := BitVec 8

/-- A 16-bit field: the nonce (R21). -/
abbrev Half := BitVec 16

/-- A 32-bit word register or command word (R9, R100). -/
abbrev Word := BitVec 32

end Sys2Proof
end

