-- ==== Sys2Proof/Syntax.lean ====
section
/-! DEFINITION. The fourteen commands of the CORE, one constructor per row of the opcode map (spec 30_encoding.md R103).
A command has no operand field: every operand is a named register or buffer fixed by the command's rule (R101). -/

namespace Sys2Proof

/-- The commands of R103, in the table's order. -/
inductive Instr where
  | payPack         -- 0x01, R120
  | pktEncode       -- 0x02, R121
  | pktDecode       -- 0x03, R122
  | bitsFromBytes   -- 0x04, R123
  | bytesFromBits   -- 0x05, R124
  | frameBuild      -- 0x06, R125
  | authSign        -- 0x10, R190
  | authVerify      -- 0x11, R192
  | authFresh       -- 0x12, R194
  | validate        -- 0x13, R196
  | txSend          -- 0x20, R140
  | rxStart         -- 0x30, R160
  | rxStop          -- 0x31, R163
  | candLoad        -- 0x32, R165
  deriving DecidableEq, Repr

end Sys2Proof
end

