-- ==== Sys2Proof/WellFormed.lean ====
section
/-! DEFINITION. What makes a command word well-formed (spec 30_encoding.md R100, R102, R104). A command as syntax carries
no operand (R101), so the only thing that can be ill-formed is the 32-bit word a host writes to CMD: its upper 24 bits
must be zero and its low byte must be one of the fourteen opcodes. -/

namespace Sys2Proof

/-- The fourteen opcode bytes of R103. -/
def opcodeBytes : List Byte :=
  [0x01, 0x02, 0x03, 0x04, 0x05, 0x06, 0x10, 0x11, 0x12, 0x13, 0x20, 0x30, 0x31, 0x32]

/-- The check of the field `zero`: bits [31:8] of the word are 0 (R100). -/
def upperBitsZero (w : Word) : Bool := w.extractLsb' 8 24 == 0

/-- The check of the field `op`: bits [7:0] are an opcode of R103. -/
def opcodeListed (w : Word) : Bool := opcodeBytes.contains (w.extractLsb' 0 8)

/-- A command word that is not illegal (R102, R104). -/
def wordWellFormed (w : Word) : Bool := upperBitsZero w && opcodeListed w

/-- Every command as syntax is well-formed: it has no operand to check (R101). -/
def Instr.wellFormed : Instr → Bool
  | .payPack | .pktEncode | .pktDecode | .bitsFromBytes | .bytesFromBits | .frameBuild => true
  | .authSign | .authVerify | .authFresh | .validate => true
  | .txSend => true
  | .rxStart | .rxStop | .candLoad => true

end Sys2Proof
end

