-- ==== Sys2Proof/Decode.lean ====
section
/-! DEFINITION. Decoding a command word and encoding a command (spec 30_encoding.md R100 to R105). A command word is
written to CMD whole, as a number (R82), so the decoder reads a 32-bit word; it reads no state (R102). -/

namespace Sys2Proof

/-- Why a word is no command (R104). -/
inductive DecodeError where
  /-- Some bit of [31:8] is not zero. -/
  | upperBitsNotZero
  /-- Bits [7:0] are none of the fourteen opcodes. -/
  | unknownOpcode (op : Byte)
  deriving DecidableEq, Repr

/-- The opcode map of R103: opcode byte and command. -/
def opcodeTable : List (Byte × Instr) :=
  [(0x01, .payPack), (0x02, .pktEncode), (0x03, .pktDecode), (0x04, .bitsFromBytes), (0x05, .bytesFromBits),
   (0x06, .frameBuild), (0x10, .authSign), (0x11, .authVerify), (0x12, .authFresh), (0x13, .validate),
   (0x20, .txSend), (0x30, .rxStart), (0x31, .rxStop), (0x32, .candLoad)]

/-- The command of the first row with this opcode byte. -/
def lookupOpcode (op : Byte) : List (Byte × Instr) → Option Instr
  | [] => none
  | row :: rows => if row.1 = op then some row.2 else lookupOpcode op rows

/-- Bits [7:0] of a command word, the field `op` (R100). -/
def opField (w : Word) : Byte := w.extractLsb' 0 8

/-- Bits [31:8] of a command word, the field `zero` (R100). -/
def zeroField (w : Word) : BitVec 24 := w.extractLsb' 8 24

/-- Decoding (R102): the command a word names, or why it names none. -/
def decode (w : Word) : Except DecodeError Instr :=
  if zeroField w = 0 then
    match lookupOpcode (opField w) opcodeTable with
    | some i => .ok i
    | none => .error (.unknownOpcode (opField w))
  else .error .upperBitsNotZero

/-- The opcode byte of a command (R103). -/
def Instr.opcode : Instr → Byte
  | .payPack => 0x01
  | .pktEncode => 0x02
  | .pktDecode => 0x03
  | .bitsFromBytes => 0x04
  | .bytesFromBits => 0x05
  | .frameBuild => 0x06
  | .authSign => 0x10
  | .authVerify => 0x11
  | .authFresh => 0x12
  | .validate => 0x13
  | .txSend => 0x20
  | .rxStart => 0x30
  | .rxStop => 0x31
  | .candLoad => 0x32

/-- The word of a command: the opcode in [7:0], zero above (R100, R103). -/
def encode (i : Instr) : Word := i.opcode.setWidth 32

/-- The command word an `nbits`-bit table word `w` stands for, every bit above `nbits` zero; none if it does not fit one
32-bit command word (R100: every command has this length; DESIGN CHOICE, safe, notes/assumptions/20.md). -/
def tableWord (nbits w : Nat) : Option Word :=
  if w % 2 ^ nbits < 2 ^ 32 then some (BitVec.ofNat 32 (w % 2 ^ nbits)) else none

/-- What the decoder reads from a table word. -/
def decodeTableWord (nbits w : Nat) : Option Instr :=
  match tableWord nbits w with
  | none => none
  | some v =>
    match decode v with
    | .ok i => some i
    | .error _ => none

end Sys2Proof
end

