-- ==== Sys2Proof/Config.lean ====
section
/-! DEFINITION. What is fixed for an instance of the CORE: the constants of spec 00_scope.md R6, R7 and R9, and the
parameters R8 leaves open. An open parameter is an opaque constant with no body, so that every theorem about the model
holds for every value of it (DESIGN CHOICE, safe, notes/assumptions/1.md); a constraint R8 puts on a parameter is built
into the way it is made from an unconstrained one (DESIGN CHOICE, safe, notes/assumptions/2.md). -/

namespace Sys2Proof.Config

/-! ### Constants of the packet and the frame (R6) -/

/-- Packet length in bytes (R6). -/
@[simp] abbrev pktBytes : Nat := 26

/-- Payload length in bytes (R6). -/
@[simp] abbrev payBytes : Nat := 14

/-- Signature length in bytes (R6). -/
@[simp] abbrev sigBytes : Nat := 8

/-- The preamble, first bit first: 1,0,1,0,1,0,1,0 (R6). -/
def preamble : List Bool := [true, false, true, false, true, false, true, false]

/-- Preamble length in bits (R6). -/
@[simp] abbrev preBits : Nat := 8

/-- Packet length in bits (R6). -/
@[simp] abbrev pktBits : Nat := 208

/-- Preamble and packet together, in bits (R6). -/
@[simp] abbrev frameBits : Nat := 216

/-- The bound of the decoder's bit buffer (R6, R171). -/
@[simp] abbrev rxCap : Nat := 432

/-! ### Constants and defaults of the modem and the authenticator (R7) -/

/-- Carrier of bit 0 in hertz (R7). -/
@[simp] abbrev f0Hz : Nat := 18500

/-- Carrier of bit 1 in hertz (R7). -/
@[simp] abbrev f1Hz : Nat := 19500

/-- The midpoint threshold in hertz (R7). -/
@[simp] abbrev fthHz : Nat := 19000

/-- The largest ramp length in microseconds (R7). -/
@[simp] abbrev rampMaxUs : Nat := 4000

/-- The lead time before the first burst in microseconds (R7, R144). -/
@[simp] abbrev leadUs : Nat := 50000

/-! ### Capacities (R9) -/

/-- Capacity of BUF in bytes (R9). -/
@[simp] abbrev bufCap : Nat := 64

/-- Capacity of PAY in bytes (R9). -/
@[simp] abbrev payCap : Nat := 32

/-- Capacity of SIG in bytes (R9). -/
@[simp] abbrev sigCap : Nat := 16

/-- Capacity of BITS in bits (R9). -/
@[simp] abbrev bitCap : Nat := 512

/-! ### Open parameters (R8) -/

/-- How much longer than eight bytes a digest is: DIGEST_LEN is 8 plus this (R8). -/
opaque digestExtra : Nat

/-- DIGEST_LEN, at least 8 (R8). -/
def digestLen : Nat := 8 + digestExtra

/-- DIGEST, a total function of a byte sequence whose result has DIGEST_LEN bytes (R8, U5). -/
opaque digest : List Byte → Vector Byte (8 + digestExtra)

/-- SECRET, fixed for the life of an instance (R8). -/
opaque secret : List Byte

/-- The default SECRET, the 19 ASCII bytes of ECHOPAY_DEMO_SECRET (R8, D8). No definition of the model reads it. -/
def defaultSecret : List Byte :=
  [0x45, 0x43, 0x48, 0x4F, 0x50, 0x41, 0x59, 0x5F, 0x44, 0x45, 0x4D, 0x4F, 0x5F, 0x53, 0x45, 0x43, 0x52, 0x45, 0x54]

/-- MARGIN_US, the safety margin in microseconds (R8, U9). -/
opaque marginUs : Nat

/-- How far FS_HZ lies above 39000 Hz, less one. -/
opaque fsExtra : Nat

/-- FS_HZ, the sample rate, above 2 × 19500 (R8). -/
def fsHz : Nat := 39001 + fsExtra

/-- One less than NBINS. -/
opaque binsExtra : Nat

/-- NBINS, the number of bins of a spectral frame, positive (R8, R167). -/
def nbins : Nat := 1 + binsExtra

/-- NFFT, positive and even, with NBINS = NFFT / 2 (R8). -/
def nfft : Nat := 2 * nbins

/-- One less than EW. -/
opaque ewExtra : Nat

/-- EW, the width in bits of one bin energy, positive (R8). -/
def ew : Nat := 1 + ewExtra

/-- AMP, the peak amplitude of a burst (R8, U19). The spec gives it no number type and no constraint; that it is a rational
is the model's (DESIGN CHOICE, unsafe, notes/assumptions/22.md). -/
opaque amp : Rat

end Sys2Proof.Config
end

