-- ==== Sys2Proof/Machine/State.lean ====
section
/-! DEFINITION. The state of the CORE (spec 10_state.md), the environment it is driven by, the outputs it is observed by,
and the machine after reset (R57). Everything is plain data. -/

namespace Sys2Proof.Machine

/-- The byte memory of the register space: pairs of an address and a byte. It holds the five buffers at their own
addresses (R47 to R51, R71); an unlisted address reads as zero, the reset value of every buffer byte (R57; DESIGN CHOICE
of layout, safe, notes/assumptions/11.md). -/
abbrev Memory := List Host.Cell

/-- The four field registers F_SENDER, F_AMOUNT, F_TS, F_NONCE (R21). -/
structure Fields where
  /-- F_SENDER, at 0x014. -/
  sender : Word
  /-- F_AMOUNT, at 0x018. -/
  amount : Word
  /-- F_TS, at 0x01C. -/
  ts : Word
  /-- F_NONCE, bits [15:0] of the word at 0x020. -/
  nonce : Half
  deriving DecidableEq, Repr

/-- The decoder's state machine (R34). `scanning` and `matchFound` are passed through inside one RxTick. -/
inductive RxState where
  | idle
  | listening
  | scanning
  | matchFound
  | stopped
  deriving DecidableEq, Repr

/-- One tone burst, in microseconds and hertz (R140, R147). -/
structure Burst where
  start : Nat
  freq : Nat
  dur : Nat
  ramp : Nat
  deriving DecidableEq, Repr

/-- The record a successful TX_SEND emits on the tone port (R147). -/
structure ToneSchedule where
  t0 : Nat
  bursts : List Burst
  deriving DecidableEq, Repr

/-- What the CORE tells the capture device on the spectrum port (R227). -/
inductive CaptureSignal where
  | request
  | release
  deriving DecidableEq, Repr

/-- The width of a host access (R77). -/
inductive Size where
  | byte
  | half
  | word
  deriving DecidableEq, Repr

/-- A host bus access: `MemRead(addr, n)` or `MemWrite(addr, n, v)` (R14, R72 to R77). -/
inductive Access where
  | read (size : Size) (addr : Nat)
  | write (size : Size) (addr : Nat) (v : Word)
  deriving DecidableEq, Repr

/-- What a host read returned, zero-extended to 32 bits (R72, R74, R76). -/
structure BusRead where
  size : Size
  addr : Nat
  data : Word
  deriving DecidableEq, Repr

/-- One event of a run (R15, R84): a host access, a turn given to one of the two agents, a change the environment makes,
or the reset input. -/
inductive Event where
  /-- The host's next bus access (R231). -/
  | bus (a : Access)
  /-- The TX agent may take its step TxComplete (R150). -/
  | txTurn
  /-- The RX agent may take its step RxTick (R168). -/
  | rxTurn
  /-- TIME advances by `dt` microseconds, though not past the deadline of an enabled step (R55, R84). -/
  | time (dt : Nat)
  /-- The clock port takes the value `v` (R55, R228). -/
  | clock (v : Word)
  /-- The playback device's answer to the draw play_ok becomes `b` (R142). -/
  | playOk (b : Bool)
  /-- The capture device's answer to the draw cap_ok becomes `b` (R161). -/
  | capOk (b : Bool)
  /-- The spectrum port shows another frame (R167). -/
  | frame (energies : List Nat)
  /-- The reset input is asserted (R240). -/
  | reset
  deriving DecidableEq, Repr

/-- The inputs the environment supplies (R55). No step of the CORE changes them (held as data: DESIGN CHOICE,
notes/assumptions/4.md). -/
structure Env where
  /-- TIME in microseconds. -/
  time : Nat
  /-- The clock port: 32 bits of epoch seconds. -/
  clock : Word
  /-- What a draw of play_ok gives now. -/
  playOk : Bool
  /-- What a draw of cap_ok gives now. -/
  capOk : Bool
  /-- The energies at the spectrum port, bin 0 first (`Sys2Proof.Machine.spectralFrame` reads them). -/
  frame : List Nat
  deriving DecidableEq, Repr

/-- The outputs a run is observed by (R56), oldest first (DESIGN CHOICE, safe, notes/assumptions/13.md). -/
structure Outputs where
  /-- The tone-port trace (R147, R226). -/
  tones : List ToneSchedule
  /-- The capture requests and releases (R227). -/
  captures : List CaptureSignal
  /-- What the host's reads returned. -/
  reads : List BusRead
  deriving DecidableEq, Repr

/-- The whole machine: the state of the CORE (R20), the environment (R55), the outputs (R56) and the events to come. -/
structure State where
  /-- F_SENDER, F_AMOUNT, F_TS, F_NONCE (R21). -/
  fields : Fields
  /-- NOW (R22). -/
  now : Word
  /-- WINDOW (R23). -/
  window : Word
  /-- ERR (R36). -/
  err : Word
  /-- IRQ_STATUS: bit 0 TX_DONE, bit 1 RX_CAND (R37). -/
  irqStatus : BitVec 2
  /-- IRQ_ENABLE (R38). -/
  irqEnable : BitVec 2
  /-- TX_BITDUR (R39). -/
  txBitdur : Word
  /-- TX_GAPDUR (R40). -/
  txGapdur : Word
  /-- RX_PERIOD (R41). -/
  rxPeriod : Word
  /-- BUF_LEN, legal values 0 to 64 (R42). -/
  bufLen : Nat
  /-- PAY_LEN, legal values 0 to 32 (R43). -/
  payLen : Nat
  /-- SIG_LEN, legal values 0 to 16 (R44). -/
  sigLen : Nat
  /-- BIT_LEN, legal values 0 to 512 (R45). -/
  bitLen : Nat
  /-- VOK (R30). -/
  vok : Bool
  /-- FOK (R31). -/
  fok : Bool
  /-- TX_BUSY (R32). -/
  txBusy : Bool
  /-- CAND_VALID (R33). -/
  candValid : Bool
  /-- RX_STATE (R34). -/
  rxState : RxState
  /-- The buffers BUF, PAY, SIG, CAND and BITS (R47 to R51). -/
  mem : Memory
  /-- RXBUF, oldest bit first (R52). -/
  rxBuf : List Bool
  /-- TX_DEADLINE, meaningful while TX_BUSY = 1 (R53). -/
  txDeadline : Nat
  /-- RX_P, meaningful while LISTENING (R54). -/
  rxP : Word
  /-- RX_NEXT, meaningful while LISTENING (R54). -/
  rxNext : Nat
  /-- The environment's inputs (R55). -/
  env : Env
  /-- The outputs (R56). -/
  out : Outputs
  /-- The events still to come, the next one first (R84). -/
  pending : List Event
  deriving DecidableEq, Repr

/-- Why the machine stops with a fault. -/
inductive Fault where
  /-- Raised by a host access at an address outside the 4096 of the register space, which does not exist (R70). Safe: the
  spec gives such an access no meaning (DEDUCED, notes/assumptions/10.md). -/
  | outsideRegisterSpace
  deriving DecidableEq, Repr

/-- Why a step has no meaning. -/
inductive Refusal where
  /-- Raised by an arm of `exec` whose instruction has no meaning yet; no arm raises it. Safe. -/
  | notModelled (mnemonic : String)
  /-- Raised by a host access of a shape R77 leaves without a defined result (93_implementation_defined.md U1, `refuse`). Safe. -/
  | undefinedAccess
  /-- Raised by TX_SEND with TX_BITDUR = 0 where neither of its errors applies (U6, `refuse`). Safe. -/
  | zeroBitDuration
  /-- Raised by RX_START with RX_PERIOD = 0 where neither of its errors applies (U6, `refuse`). Safe. -/
  | zeroSamplePeriod
  deriving DecidableEq, Repr

/-- The machine right after reset (R57). TX_DEADLINE, RX_P and RX_NEXT, which R57 leaves unspecified, are 0 (DESIGN CHOICE,
notes/assumptions/3.md, unsafe); the environment's values are a DESIGN CHOICE (notes/assumptions/4.md, unsafe); nothing
is pending (DESIGN CHOICE, safe, notes/assumptions/5.md). -/
def State.reset : State where
  fields := { sender := 0, amount := 0, ts := 0, nonce := 0 }
  now := 0
  window := 10
  err := 0
  irqStatus := 0
  irqEnable := 0
  txBitdur := 30000
  txGapdur := 4000
  rxPeriod := 30000
  bufLen := 0
  payLen := 0
  sigLen := 0
  bitLen := 0
  vok := false
  fok := false
  txBusy := false
  candValid := false
  rxState := .idle
  mem := []
  rxBuf := []
  txDeadline := 0
  rxP := 0
  rxNext := 0
  env := { time := 0, clock := 0, playOk := true, capOk := true, frame := [] }
  out := { tones := [], captures := [], reads := [] }
  pending := []

end Sys2Proof.Machine
end

