-- ==== Sys2Proof/Machine/Ops.lean ====
section
/-! DEFINITION. The named operations over the state: the byte memory, the bits of BITS, the updates of State, and raising
an error (spec 60_exceptions.md R212), which is this hardware's only exception entry. There is no return from it (R213):
control never goes anywhere, and ERR keeps its value until the next command. -/

namespace Sys2Proof.Machine

/-! ### The byte memory -/

/-- The byte at an address; an unlisted address reads as zero (R57, R74). -/
def Memory.read : Memory → Nat → Byte
  | [], _ => 0
  | cell :: m, a => if cell.1 = a then cell.2 else Memory.read m a

/-- The memory without an entry for the address. -/
def Memory.erase : Memory → Nat → Memory
  | [], _ => []
  | cell :: m, a => if cell.1 = a then Memory.erase m a else cell :: Memory.erase m a

/-- The memory with an entry put before the first entry of a higher address. -/
def Memory.insert : Memory → Nat → Byte → Memory
  | [], a, v => [(a, v)]
  | cell :: m, a, v => if a < cell.1 then (a, v) :: cell :: m else cell :: Memory.insert m a v

/-- Storing one byte (R75). Writing what an unlisted address reads as removes the entry. -/
def Memory.write (m : Memory) (a : Nat) (v : Byte) : Memory :=
  if v = 0 then Memory.erase m a else Memory.insert (Memory.erase m a) a v

/-- The canonical form: addresses strictly rising, no entry that reads like an unlisted address. -/
abbrev Memory.wf (m : Memory) : Prop :=
  m.Pairwise (fun c d => c.1 < d.1) ∧ ∀ c ∈ m, c.2 ≠ 0

/-- `n` bytes from address `base` on, lowest address first. -/
def loadBytes (m : Memory) (base n : Nat) : List Byte :=
  (List.range n).map fun j => Memory.read m (base + j)

/-- Storing a run of bytes from address `base` on. -/
def storeBytes (m : Memory) (base : Nat) : List Byte → Memory
  | [] => m
  | v :: vs => storeBytes (Memory.write m base v) (base + 1) vs

/-! ### Where the buffers lie (R47 to R51, R71) -/

/-- BUF[j] is the byte at 0x100 + j (R47). -/
@[simp] abbrev bufBase : Nat := 0x100

/-- PAY[j] is the byte at 0x140 + j (R48). -/
@[simp] abbrev payBase : Nat := 0x140

/-- SIG[j] is the byte at 0x160 + j (R49). -/
@[simp] abbrev sigBase : Nat := 0x160

/-- CAND[j] is the byte at 0x180 + j (R50). -/
@[simp] abbrev candBase : Nat := 0x180

/-- BITS is seen as the 64 bytes from 0x200 on (R51). -/
@[simp] abbrev bitsBase : Nat := 0x200

/-! ### The bits of BITS (R51): bit i is bit 7 − (i mod 8) of the byte at 0x200 + floor(i/8) -/

/-- Reading BITS[i]. -/
def readBit (m : Memory) (i : Nat) : Bool :=
  (Memory.read m (bitsBase + i / 8)).getLsbD (7 - i % 8)

/-- A byte with its bit `k` set to `b`. -/
def putBit (v : Byte) (k : Nat) (b : Bool) : Byte :=
  if b then v ||| (1#8 <<< k) else v &&& ~~~(1#8 <<< k)

/-- Writing BITS[i]. -/
def writeBit (m : Memory) (i : Nat) (b : Bool) : Memory :=
  Memory.write m (bitsBase + i / 8) (putBit (Memory.read m (bitsBase + i / 8)) (7 - i % 8) b)

/-- BITS[0 .. n−1]. -/
def loadBits (m : Memory) (n : Nat) : List Bool :=
  (List.range n).map (readBit m)

/-- Writing a run of bits from BITS[i] on. -/
def storeBits (m : Memory) (i : Nat) : List Bool → Memory
  | [] => m
  | b :: bs => storeBits (writeBit m i b) (i + 1) bs

/-! ### Updates of the state -/

/-- The state with other field registers. -/
def State.withFields (s : State) (v : Fields) : State := { s with fields := v }
/-- The state with another NOW. -/
def State.withNow (s : State) (v : Word) : State := { s with now := v }
/-- The state with another WINDOW. -/
def State.withWindow (s : State) (v : Word) : State := { s with window := v }
/-- The state with another ERR. -/
def State.withErr (s : State) (v : Word) : State := { s with err := v }
/-- The state with another IRQ_STATUS. -/
def State.withIrqStatus (s : State) (v : BitVec 2) : State := { s with irqStatus := v }
/-- The state with another IRQ_ENABLE. -/
def State.withIrqEnable (s : State) (v : BitVec 2) : State := { s with irqEnable := v }
/-- The state with another TX_BITDUR. -/
def State.withTxBitdur (s : State) (v : Word) : State := { s with txBitdur := v }
/-- The state with another TX_GAPDUR. -/
def State.withTxGapdur (s : State) (v : Word) : State := { s with txGapdur := v }
/-- The state with another RX_PERIOD. -/
def State.withRxPeriod (s : State) (v : Word) : State := { s with rxPeriod := v }
/-- The state with another BUF_LEN. -/
def State.withBufLen (s : State) (v : Nat) : State := { s with bufLen := v }
/-- The state with another PAY_LEN. -/
def State.withPayLen (s : State) (v : Nat) : State := { s with payLen := v }
/-- The state with another SIG_LEN. -/
def State.withSigLen (s : State) (v : Nat) : State := { s with sigLen := v }
/-- The state with another BIT_LEN. -/
def State.withBitLen (s : State) (v : Nat) : State := { s with bitLen := v }
/-- The state with another VOK. -/
def State.withVok (s : State) (v : Bool) : State := { s with vok := v }
/-- The state with another FOK. -/
def State.withFok (s : State) (v : Bool) : State := { s with fok := v }
/-- The state with another TX_BUSY. -/
def State.withTxBusy (s : State) (v : Bool) : State := { s with txBusy := v }
/-- The state with another CAND_VALID. -/
def State.withCandValid (s : State) (v : Bool) : State := { s with candValid := v }
/-- The state with another RX_STATE. -/
def State.withRxState (s : State) (v : RxState) : State := { s with rxState := v }
/-- The state with other buffers. -/
def State.withMem (s : State) (v : Memory) : State := { s with mem := v }
/-- The state with another RXBUF. -/
def State.withRxBuf (s : State) (v : List Bool) : State := { s with rxBuf := v }
/-- The state with another TX_DEADLINE. -/
def State.withTxDeadline (s : State) (v : Nat) : State := { s with txDeadline := v }
/-- The state with another RX_P. -/
def State.withRxP (s : State) (v : Word) : State := { s with rxP := v }
/-- The state with another RX_NEXT. -/
def State.withRxNext (s : State) (v : Nat) : State := { s with rxNext := v }
/-- The state with other environment inputs. -/
def State.withEnv (s : State) (v : Env) : State := { s with env := v }
/-- The state with other outputs. -/
def State.withOut (s : State) (v : Outputs) : State := { s with out := v }
/-- The state with other events to come. -/
def State.withPending (s : State) (v : List Event) : State := { s with pending := v }

/-! ### Outputs -/

/-- One record on the tone port (R147). -/
def State.emitTone (s : State) (t : ToneSchedule) : State :=
  s.withOut { s.out with tones := s.out.tones ++ [t] }

/-- One signal to the capture device (R227). -/
def State.signalCapture (s : State) (c : CaptureSignal) : State :=
  s.withOut { s.out with captures := s.out.captures ++ [c] }

/-- What a host read returned. -/
def State.logRead (s : State) (r : BusRead) : State :=
  s.withOut { s.out with reads := s.out.reads ++ [r] }

/-! ### Errors (60_exceptions.md R210 to R213) -/

/-- The error kinds (R210). -/
inductive ErrKind where
  | formatError
  | authError
  | stalenessError
  | deviceError
  | cmdError
  deriving DecidableEq, Repr

/-- The code of an error kind (R210). -/
def ErrKind.code : ErrKind → Byte
  | .formatError => 1
  | .authError => 2
  | .stalenessError => 3
  | .deviceError => 4
  | .cmdError => 5

/-- The word `raise` writes to ERR: the code in [7:0], the opcode byte in [15:8], zero above (R36, R212). -/
def errWord (op : Byte) (k : ErrKind) : Word := (op.setWidth 32 <<< 8) ||| k.code.setWidth 32

/-- `raise K` in a command whose word has the low byte `op`: ERR is written and nothing else changes (R212). -/
def State.raiseErr (s : State) (op : Byte) (k : ErrKind) : State := s.withErr (errWord op k)

/-- The end of a command that does not raise: ERR is 0 (R36, R212). -/
def State.succeed (s : State) : State := s.withErr 0

/-- An illegal command word raises CmdError with its own low byte (R104). -/
def State.raiseIllegal (s : State) (w : Word) : State := s.raiseErr (opField w) .cmdError

end Sys2Proof.Machine
end

