-- ==== Sys2Proof/Machine/Operands.lean ====
section
/-! DEFINITION. The operands of the commands: byte order (spec 00_scope.md R11, 20_memory.md R80), bit packing (R12, R81),
the packet's fields (40_packet_codec.md R126), and the host's view of the registers (10_state.md, 20_memory.md R71 to
R77). A command word carries no operand (R101). -/

namespace Sys2Proof.Machine

/-! ### Byte order (R11, R80): big-endian -/

/-- `be32(v)` = v[31:24], v[23:16], v[15:8], v[7:0]. -/
def be32 (v : Word) : List Byte :=
  [v.extractLsb' 24 8, v.extractLsb' 16 8, v.extractLsb' 8 8, v.extractLsb' 0 8]

/-- `be16(v)` = v[15:8], v[7:0]. -/
def be16 (v : Half) : List Byte := [v.extractLsb' 8 8, v.extractLsb' 0 8]

/-- B[j], zero beyond the end (no rule reads there). -/
def byteAt (b : List Byte) (j : Nat) : Byte := b.getD j 0

/-- `u32(B, o)` = B[o]·2^24 + B[o+1]·2^16 + B[o+2]·2^8 + B[o+3]. -/
def u32 (b : List Byte) (o : Nat) : Word :=
  byteAt b o ++ byteAt b (o + 1) ++ byteAt b (o + 2) ++ byteAt b (o + 3)

/-- `u16(B, o)` = B[o]·2^8 + B[o+1]. -/
def u16 (b : List Byte) (o : Nat) : Half := byteAt b o ++ byteAt b (o + 1)

/-! ### Bit packing (R12, R81): most significant bit first -/

/-- `bitsFromBytes(B)`: bit 8j + i is bit 7 − i of B[j]. -/
def bitsFromBytes (b : List Byte) : List Bool :=
  (List.range (8 * b.length)).map fun n => (byteAt b (n / 8)).getLsbD (7 - n % 8)

/-- Σ_{i=0..7} b[8j+i]·2^(7−i), the byte packed from eight bits from index `o` on. -/
def packByte (b : List Bool) (o : Nat) : Byte :=
  BitVec.ofNat 8 (((List.range 8).map fun i => (b.getD (o + i) false).toNat * 2 ^ (7 - i)).sum)

/-- `bytesFromBits(b)`: floor(len(b)/8) bytes; trailing bits are dropped. -/
def bytesFromBits (b : List Bool) : List Byte :=
  (List.range (b.length / 8)).map fun j => packByte b (8 * j)

/-! ### The packet (R126) -/

/-- The payload of the field registers: packet bytes 0 to 13 (R120, R126). -/
def payloadOf (f : Fields) : List Byte := be32 f.sender ++ be32 f.amount ++ be32 f.ts ++ be16 f.nonce

/-- The field values in a packet's first 14 bytes (R122, R126). -/
def fieldsOf (b : List Byte) : Fields where
  sender := u32 b 0
  amount := u32 b 4
  ts := u32 b 8
  nonce := u16 b 12

/-- The packet of field values and a signature; bytes 22 to 25 are zero (R121, R126). -/
def packetOf (f : Fields) (sig : List Byte) : List Byte := payloadOf f ++ sig ++ [0, 0, 0, 0]

/-- Packet bytes 14 to 21, the signature (R126). -/
def signatureOf (b : List Byte) : List Byte := (b.drop 14).take 8

/-- The bit frame of a packet: the preamble, then its bits (R125). -/
def frameOf (packet : List Byte) : List Bool := Config.preamble ++ bitsFromBytes packet

/-- The first `n` bytes of BUF, of PAY, of SIG, of CAND. -/
def State.bufBytes (s : State) (n : Nat) : List Byte := loadBytes s.mem bufBase n
/-- The first `n` bytes of PAY. -/
def State.payBytes (s : State) (n : Nat) : List Byte := loadBytes s.mem payBase n
/-- The first `n` bytes of SIG. -/
def State.sigBytes (s : State) (n : Nat) : List Byte := loadBytes s.mem sigBase n
/-- The first `n` bytes of CAND. -/
def State.candBytes (s : State) (n : Nat) : List Byte := loadBytes s.mem candBase n
/-- The first `n` bits of BITS. -/
def State.bits (s : State) (n : Nat) : List Bool := loadBits s.mem n

/-! ### The register space (R71) -/

/-- The nineteen word registers in the order of their addresses (R71). -/
inductive Reg where
  | cmd
  | status
  | err
  | irqStatus
  | irqEnable
  | fSender
  | fAmount
  | fTs
  | fNonce
  | now
  | window
  | clk
  | txBitdur
  | txGapdur
  | rxPeriod
  | bufLen
  | payLen
  | sigLen
  | bitLen
  deriving DecidableEq, Repr

/-- The word registers from 0x000 in steps of 4 (R71). -/
def regMap : List Reg :=
  [.cmd, .status, .err, .irqStatus, .irqEnable, .fSender, .fAmount, .fTs, .fNonce, .now, .window, .clk,
   .txBitdur, .txGapdur, .rxPeriod, .bufLen, .payLen, .sigLen, .bitLen]

/-- The address of a word register, as its own rule gives it (10_state.md R21 to R24, R28, R35 to R45). -/
def Reg.addr : Reg → Nat
  | .cmd => 0x000
  | .status => 0x004
  | .err => 0x008
  | .irqStatus => 0x00C
  | .irqEnable => 0x010
  | .fSender => 0x014
  | .fAmount => 0x018
  | .fTs => 0x01C
  | .fNonce => 0x020
  | .now => 0x024
  | .window => 0x028
  | .clk => 0x02C
  | .txBitdur => 0x030
  | .txGapdur => 0x034
  | .rxPeriod => 0x038
  | .bufLen => 0x03C
  | .payLen => 0x040
  | .sigLen => 0x044
  | .bitLen => 0x048

/-- The byte buffers (R71). -/
inductive Buffer where
  | buf
  | pay
  | sig
  | cand
  | bits
  deriving DecidableEq, Repr

/-- The first address of a buffer (R71). -/
def Buffer.base : Buffer → Nat
  | .buf => bufBase
  | .pay => payBase
  | .sig => sigBase
  | .cand => candBase
  | .bits => bitsBase

/-- How many byte addresses a buffer has (R71). -/
def Buffer.size : Buffer → Nat
  | .buf => 64
  | .pay => 32
  | .sig => 16
  | .cand => 26
  | .bits => 64

/-- The address lies inside the buffer. -/
def Buffer.holds (b : Buffer) (a : Nat) : Bool := decide (b.base ≤ a) && decide (a < b.base + b.size)

/-- The buffer an address lies in, if any (R71). -/
def bufferAt (a : Nat) : Option Buffer :=
  [Buffer.buf, .pay, .sig, .cand, .bits].find? (fun b => b.holds a)

/-- What a host access of some width at some address reaches (R70 to R77). -/
inductive Target where
  /-- A word register, accessed as one aligned word (R72, R73). -/
  | reg (r : Reg)
  /-- A byte of a buffer (R74, R75). -/
  | byteOf (b : Buffer)
  /-- A reserved address (R76). -/
  | reserved
  /-- A shape with no defined result (R77, U1). -/
  | undefined
  /-- No address of the register space (R70). -/
  | outside
  deriving DecidableEq, Repr

/-- What an access of a width at an address reaches. A reserved address takes a byte or an aligned word that does not
straddle into a buffer ("one byte or one word as asked", R76); every other shape is undefined (R77). The half-word and
misaligned accesses to reserved addresses are DEDUCED to be undefined (notes/assumptions/9.md, safe). -/
def target (size : Size) (a : Nat) : Target :=
  if 4096 ≤ a then .outside
  else
    match size with
    | .byte =>
      if a < 0x4C then .undefined
      else
        match bufferAt a with
        | some b => .byteOf b
        | none => .reserved
    | .half => .undefined
    | .word =>
      if a % 4 = 0 then
        match regMap[a / 4]? with
        | some r => .reg r
        | none =>
          if (bufferAt a).isNone && (bufferAt (a + 1)).isNone && (bufferAt (a + 2)).isNone && (bufferAt (a + 3)).isNone
          then .reserved
          else .undefined
      else .undefined

end Sys2Proof.Machine
end

