-- ==== Sys2Proof/Machine/Flags.lean ====
section
/-! DEFINITION. The flags and status words: STATUS (spec 10_state.md R28), the capture resource (R34), the interrupt line
(60_exceptions.md R216), the event bits (R37), the digest test behind VOK (00_scope.md R13, 43_authenticator.md R192)
and the freshness test behind FOK (R194). There are no arithmetic condition codes (R29). -/

namespace Sys2Proof.Machine

/-- The number of a decoder state (R34). -/
def RxState.code : RxState → BitVec 3
  | .idle => 0
  | .listening => 1
  | .scanning => 2
  | .matchFound => 3
  | .stopped => 4

/-- STATUS: [0] TX_BUSY, [3:1] RX_STATE, [4] VOK, [5] FOK, [6] CAND_VALID, zero above (R28). -/
def State.statusWord (s : State) : Word :=
  (BitVec.ofBool s.candValid ++ BitVec.ofBool s.fok ++ BitVec.ofBool s.vok ++ s.rxState.code ++ BitVec.ofBool s.txBusy).setWidth 32

/-- The capture resource is held exactly in LISTENING, SCANNING and MATCHFOUND (R34, R54). -/
def RxState.holdsCapture : RxState → Bool
  | .listening => true
  | .scanning => true
  | .matchFound => true
  | .idle => false
  | .stopped => false

/-- The capture resource is held (R34). -/
def State.captureHeld (s : State) : Bool := s.rxState.holdsCapture

/-- The interrupt line: 1 iff an enabled event is pending (R216). -/
def State.irq (s : State) : Bool := s.irqStatus &&& s.irqEnable != 0

/-- IRQ_STATUS bit 0, TX_DONE (R37). -/
def txDoneBit : BitVec 2 := 0b01

/-- IRQ_STATUS bit 1, RX_CAND (R37). -/
def rxCandBit : BitVec 2 := 0b10

/-- Setting an event bit; a bit already set stays set (R217). -/
def State.setEvent (s : State) (bit : BitVec 2) : State := s.withIrqStatus (s.irqStatus ||| bit)

/-- `sig8(P)` = DIGEST(P ‖ SECRET)[0..7] (R13). -/
def sig8 (p : List Byte) : List Byte := (Config.digest (p ++ Config.secret)).toList.take 8

/-- `|a − b|` in the unbounded integers (R11). -/
def absDiff (a b : Nat) : Nat := ((a : Int) - (b : Int)).natAbs

/-- `freshnessCheck(ts, now, window)`: |now − ts| ≤ window, the boundary included, no wrap-around (R194, R195). -/
def isFresh (ts now window : Word) : Bool := decide (absDiff now.toNat ts.toNat ≤ window.toNat)

end Sys2Proof.Machine
end

