-- ==== Sys2Proof/Machine/Authenticator.lean ====
section
/-! DEFINITION. The commands of the Authenticator (spec 43_authenticator.md). -/

namespace Sys2Proof.Machine

/-- AUTH_SIGN (R190). It never raises, whatever PAY_LEN is. -/
def execAuthSign (s : State) : Host.Outcome State Fault Refusal :=
  .next (((s.withMem (storeBytes s.mem sigBase (sig8 (s.payBytes s.payLen)))).withSigLen 8).succeed)

/-- AUTH_VERIFY (R192). A wrong length or a differing byte gives VOK = 0; it never raises. -/
def execAuthVerify (s : State) : Host.Outcome State Fault Refusal :=
  .next ((s.withVok (decide (s.sigLen = 8) && s.sigBytes 8 == sig8 (s.payBytes s.payLen))).succeed)

/-- AUTH_FRESH (R194, R195). It never raises. -/
def execAuthFresh (s : State) : Host.Outcome State Fault Refusal :=
  .next ((s.withFok (isFresh s.fields.ts s.now s.window)).succeed)

/-- VALIDATE (R196): length, signature, freshness in this order (R214); BUF_LEN becomes 0 in every outcome. -/
def execValidate (s : State) : Host.Outcome State Fault Refusal :=
  if s.bufLen = 26 then
    if sig8 (s.bufBytes 14) = signatureOf (s.bufBytes 22) then
      if isFresh (u32 (s.bufBytes 22) 8) s.now s.window then
        .next (((s.withBufLen 0).withFields (fieldsOf (s.bufBytes 22))).succeed)
      else .next ((s.withBufLen 0).raiseErr Instr.validate.opcode .stalenessError)
    else .next ((s.withBufLen 0).raiseErr Instr.validate.opcode .authError)
  else .next ((s.withBufLen 0).raiseErr Instr.validate.opcode .formatError)

end Sys2Proof.Machine
end

