-- ==== Sys2Proof/Machine/ModemDecoder.lean ====
section
/-! DEFINITION. The Modem Decoder: the commands RX_START, RX_STOP and CAND_LOAD, classification, the preamble scan, and
the RX agent's step RxTick (spec 42_modem_decoder.md). -/

namespace Sys2Proof.Machine

/-! ### Commands -/

/-- RX_START (R160): LISTENING test, then the draw cap_ok (R214). RX_PERIOD = 0 is refused once neither error applies (U6;
the order is DEDUCED, safe, notes/assumptions/8.md); the state test is notes/assumptions/7.md. -/
def execRxStart (s : State) : Host.Outcome State Fault Refusal :=
  if s.rxState = .listening then .next (s.raiseErr Instr.rxStart.opcode .cmdError)
  else if s.env.capOk then
    if s.rxPeriod = 0 then .refused .zeroSamplePeriod
    else
      .next ((((((s.withRxBuf []).withRxP s.rxPeriod).withRxNext (s.env.time + s.rxPeriod.toNat)).withRxState
        .listening).signalCapture .request).succeed)
  else .next (s.raiseErr Instr.rxStart.opcode .deviceError)

/-- Releasing the capture resource, if it is held (R164, R227, R240; DEDUCED, safe, notes/assumptions/17.md). -/
def State.releaseCapture (s : State) : State := if s.captureHeld then s.signalCapture .release else s

/-- RX_STOP (R163). It never raises. -/
def execRxStop (s : State) : Host.Outcome State Fault Refusal :=
  .next (((s.releaseCapture.withRxBuf []).withRxState .stopped).succeed)

/-- CAND_LOAD (R165). CmdError when there is no unconsumed candidate. -/
def execCandLoad (s : State) : Host.Outcome State Fault Refusal :=
  if s.candValid then
    .next ((((s.withMem (storeBytes s.mem bufBase (s.candBytes 26))).withBufLen 26).withCandValid false).succeed)
  else .next (s.raiseErr Instr.candLoad.opcode .cmdError)

/-! ### Classification (R167, R169) -/

/-- The frame on a port of `nbins` bins of `ew` bits: bin k carries the k-th energy given, cut to `ew` bits, zero where
none is given (DESIGN CHOICE, safe, notes/assumptions/12.md). -/
def frameOnPort (nbins ew : Nat) (energies : List Nat) : List Nat :=
  (List.range nbins).map fun k => energies.getD k 0 % 2 ^ ew

/-- The spectral frame E[0..NBINS−1] a tick reads (R167). -/
def spectralFrame (s : State) : List Nat := frameOnPort Config.nbins Config.ew s.env.frame

/-- The greatest energy of a frame, 0 for no bins. -/
def maxEnergy : List Nat → Nat
  | [] => 0
  | e :: es => max e (maxEnergy es)

/-- The dominant bin: the least k with E[k] = max(E) (R169). -/
def dominantBin (frame : List Nat) : Nat := frame.findIdx (fun e => e == maxEnergy frame)

/-- The bit of a frame for a sample rate and a transform size: 1 iff kmax × FS_HZ > 19000 × NFFT (R169). -/
def classifyWith (fsHz nfft : Nat) (frame : List Nat) : Bool :=
  decide (dominantBin frame * fsHz > Config.fthHz * nfft)

/-- The bit of a frame on this instance (R169). -/
def classify (frame : List Nat) : Bool := classifyWith Config.fsHz Config.nfft frame

/-! ### The bit buffer and the scan (R170 to R174) -/

/-- Append a bit, then discard the oldest bits beyond 432 (R170, R171). -/
def appendBit (buf : List Bool) (b : Bool) : List Bool :=
  (buf ++ [b]).drop ((buf ++ [b]).length - Config.rxCap)

/-- The preamble stands at index i: RXBUF[i+q] = PREAMBLE[q] for q in 0..7 (R172). -/
def preambleAt (buf : List Bool) (i : Nat) : Bool := (buf.drop i).take Config.preBits == Config.preamble

/-- The least start offset in 0 .. RX_LEN − 8 at which the preamble stands (R172). -/
def firstMatch (buf : List Bool) : Option Nat :=
  (List.range (buf.length + 1 - Config.preBits)).find? (preambleAt buf)

/-- The first match, if its 208 following bits are in the buffer (R173, R174). -/
def fullMatch (buf : List Bool) : Option Nat :=
  match firstMatch buf with
  | none => none
  | some i => if i + Config.frameBits ≤ buf.length then some i else none

/-- The 26 bytes of the 208 bits after the preamble at index i (R173). -/
def candidateAt (buf : List Bool) (i : Nat) : List Byte :=
  bytesFromBits ((buf.drop (i + Config.preBits)).take Config.pktBits)

/-- A match with a full window: SCANNING → MATCHFOUND → STOPPED (R173). -/
def emitCandidate (s : State) (i : Nat) : State :=
  ((((((s.withRxState .matchFound).withMem (storeBytes s.mem candBase (candidateAt s.rxBuf i))).withCandValid
    true).setEvent rxCandBit).withRxBuf []).releaseCapture).withRxState .stopped

/-- No match with a full window: SCANNING → LISTENING, the next tick one period on (R174). -/
def keepListening (s : State) : State :=
  (s.withRxState .listening).withRxNext (s.rxNext + s.rxP.toNat)

/-- What a tick does with the bit it has classified: append, trim, scan, emit or defer (R168, R170 to R174). -/
def absorbBit (s : State) (b : Bool) : State :=
  let scanning := (s.withRxState .scanning).withRxBuf (appendBit s.rxBuf b)
  match fullMatch scanning.rxBuf with
  | some i => emitCandidate scanning i
  | none => keepListening scanning

/-- RxTick is enabled: RX_STATE = LISTENING and TIME = RX_NEXT (R168). -/
def State.rxTickEnabled (s : State) : Bool := decide (s.rxState = .listening) && decide (s.env.time = s.rxNext)

/-- RxTick (R168). It does not write ERR. -/
def rxTick (s : State) : State := absorbBit s (classify (spectralFrame s))

end Sys2Proof.Machine
end

