-- ==== Sys2Proof/Machine/ModemEncoder.lean ====
section
/-! DEFINITION. The Modem Encoder: the tone schedule, the command TX_SEND and the TX agent's step TxComplete (spec
41_modem_encoder.md). All times are natural numbers of microseconds, so no sum wraps (R144). -/

namespace Sys2Proof.Machine

/-- The ramp length min(4000, floor(D/4)) (R145). -/
def rampLen (d : Nat) : Nat := min Config.rampMaxUs (d / 4)

/-- The carrier of a bit (R143). -/
def carrier (b : Bool) : Nat := if b then Config.f1Hz else Config.f0Hz

/-- Burst k of a send begun at `t0` with burst length `d` and gap `g` (R140, R144). -/
def burstOf (t0 d g k : Nat) (b : Bool) : Burst where
  start := t0 + Config.leadUs + k * (d + g)
  freq := carrier b
  dur := d
  ramp := rampLen d

/-- The record of a send: one burst per bit, in order (R140, R147). -/
def scheduleOf (t0 d g : Nat) (bits : List Bool) : ToneSchedule where
  t0 := t0
  bursts := bits.mapIdx fun k b => burstOf t0 d g k b

/-- Tsched(n, D, G), the time from t0 to the end of the last burst (R148). -/
def totalScheduled (n d g : Nat) : Nat :=
  if n = 0 then Config.leadUs else Config.leadUs + n * d + (n - 1) * g

/-- The envelope factor g(τ) of a burst of length `d` at `τ` microseconds after its start, 0 ≤ τ ≤ D (R145). The record
carries the ramp length, not samples; no step reads this (DEDUCED, safe, notes/assumptions/19.md). -/
def envelope (d : Nat) (tau : Rat) : Rat :=
  if rampLen d = 0 then 1
  else if tau < rampLen d then tau / rampLen d
  else if tau ≤ (d : Rat) - rampLen d then 1
  else ((d : Rat) - tau) / rampLen d

/-- The amplitude AMP × g(τ) (R145), a rational as AMP is (DESIGN CHOICE, unsafe, notes/assumptions/22.md). -/
def amplitude (d : Nat) (tau : Rat) : Rat := Config.amp * envelope d tau

/-- TX_SEND (R140): busy test, then the draw play_ok (R214), then the schedule. TX_BITDUR = 0 is refused once neither
error applies (U6; the order is DEDUCED, safe, notes/assumptions/8.md); the busy test is notes/assumptions/7.md. -/
def execTxSend (s : State) : Host.Outcome State Fault Refusal :=
  if s.txBusy then .next (s.raiseErr Instr.txSend.opcode .cmdError)
  else if s.env.playOk then
    if s.txBitdur = 0 then .refused .zeroBitDuration
    else
      .next (((((s.emitTone (scheduleOf s.env.time s.txBitdur.toNat s.txGapdur.toNat (s.bits s.bitLen))).withTxDeadline
        (s.env.time + totalScheduled s.bitLen s.txBitdur.toNat s.txGapdur.toNat + Config.marginUs)).withTxBusy true)).succeed)
  else .next (s.raiseErr Instr.txSend.opcode .deviceError)

/-- TxComplete is enabled: TX_BUSY = 1 and TIME = TX_DEADLINE (R150). -/
def State.txCompleteEnabled (s : State) : Bool := s.txBusy && decide (s.env.time = s.txDeadline)

/-- TxComplete (R150). It does not write ERR. -/
def txComplete (s : State) : State := (s.withTxBusy false).setEvent txDoneBit

end Sys2Proof.Machine
end

