-- ==== Sys2Proof/Machine/PacketCodec.lean ====
section
/-! DEFINITION. The commands of the Packet Codec (spec 40_packet_codec.md). -/

namespace Sys2Proof.Machine

/-- PAY_PACK (R120). It never raises. -/
def execPayPack (s : State) : Host.Outcome State Fault Refusal :=
  .next (((s.withMem (storeBytes s.mem payBase (payloadOf s.fields))).withPayLen 14).succeed)

/-- PKT_ENCODE (R121). FormatError when SIG_LEN ≠ 8. -/
def execPktEncode (s : State) : Host.Outcome State Fault Refusal :=
  if s.sigLen = 8 then
    .next (((s.withMem (storeBytes s.mem bufBase (packetOf s.fields (s.sigBytes 8)))).withBufLen 26).succeed)
  else .next (s.raiseErr Instr.pktEncode.opcode .formatError)

/-- PKT_DECODE (R122). FormatError when BUF_LEN ≠ 26. It reads BUF[0..21] only. -/
def execPktDecode (s : State) : Host.Outcome State Fault Refusal :=
  if s.bufLen = 26 then
    .next ((((s.withFields (fieldsOf (s.bufBytes 22))).withMem
      (storeBytes s.mem sigBase (signatureOf (s.bufBytes 22)))).withSigLen 8).succeed)
  else .next (s.raiseErr Instr.pktDecode.opcode .formatError)

/-- BITS_FROM_BYTES (R123). It never raises. -/
def execBitsFromBytes (s : State) : Host.Outcome State Fault Refusal :=
  .next (((s.withMem (storeBits s.mem 0 (bitsFromBytes (s.bufBytes s.bufLen)))).withBitLen (8 * s.bufLen)).succeed)

/-- BYTES_FROM_BITS (R124). It never raises; trailing bits are dropped. -/
def execBytesFromBits (s : State) : Host.Outcome State Fault Refusal :=
  .next (((s.withMem (storeBytes s.mem bufBase (bytesFromBits (s.bits s.bitLen)))).withBufLen (s.bitLen / 8)).succeed)

/-- FRAME_BUILD (R125). FormatError when BUF_LEN ≠ 26. -/
def execFrameBuild (s : State) : Host.Outcome State Fault Refusal :=
  if s.bufLen = 26 then
    .next (((s.withMem (storeBits s.mem 0 (frameOf (s.bufBytes 26)))).withBitLen 216).succeed)
  else .next (s.raiseErr Instr.frameBuild.opcode .formatError)

end Sys2Proof.Machine
end

