-- ==== Sys2Proof/Machine/Dispatch.lean ====
section
/-! DEFINITION. The meaning of each of the fourteen commands (spec 30_encoding.md R103). -/

namespace Sys2Proof.Machine

/-- A command runs to its end by its rule (R102). -/
def exec (i : Instr) (s : State) : Host.Outcome State Fault Refusal :=
  match i with
  | .payPack => Sys2Proof.Machine.execPayPack s
  | .pktEncode => Sys2Proof.Machine.execPktEncode s
  | .pktDecode => Sys2Proof.Machine.execPktDecode s
  | .bitsFromBytes => Sys2Proof.Machine.execBitsFromBytes s
  | .bytesFromBits => Sys2Proof.Machine.execBytesFromBits s
  | .frameBuild => Sys2Proof.Machine.execFrameBuild s
  | .authSign => Sys2Proof.Machine.execAuthSign s
  | .authVerify => Sys2Proof.Machine.execAuthVerify s
  | .authFresh => Sys2Proof.Machine.execAuthFresh s
  | .validate => Sys2Proof.Machine.execValidate s
  | .txSend => Sys2Proof.Machine.execTxSend s
  | .rxStart => Sys2Proof.Machine.execRxStart s
  | .rxStop => Sys2Proof.Machine.execRxStop s
  | .candLoad => Sys2Proof.Machine.execCandLoad s

end Sys2Proof.Machine
end

