-- ==== Sys2Proof/Machine/Bus.lean ====
section
/-! DEFINITION. The host's bus accesses (spec 20_memory.md R70 to R77), the write to CMD that runs a command
(30_encoding.md R102, R104), the reset step (70_reset_and_hazards.md R240), the passing of TIME (R84), and one event of a
run (00_scope.md R15). -/

namespace Sys2Proof.Machine

/-! ### Word registers -/

/-- The value of a word register (R72 and the register's rule). CMD reads as zero, CLK as the clock port. -/
def readReg (s : State) : Reg → Word
  | .cmd => 0
  | .status => s.statusWord
  | .err => s.err
  | .irqStatus => s.irqStatus.setWidth 32
  | .irqEnable => s.irqEnable.setWidth 32
  | .fSender => s.fields.sender
  | .fAmount => s.fields.amount
  | .fTs => s.fields.ts
  | .fNonce => s.fields.nonce.setWidth 32
  | .now => s.now
  | .window => s.window
  | .clk => s.env.clock
  | .txBitdur => s.txBitdur
  | .txGapdur => s.txGapdur
  | .rxPeriod => s.rxPeriod
  | .bufLen => BitVec.ofNat 32 s.bufLen
  | .payLen => BitVec.ofNat 32 s.payLen
  | .sigLen => BitVec.ofNat 32 s.sigLen
  | .bitLen => BitVec.ofNat 32 s.bitLen

/-- A length register's new value: the written one if it is legal, else the old one (R46). -/
def lengthAfterWrite (cap old : Nat) (v : Word) : Nat := if v.toNat ≤ cap then v.toNat else old

/-- A write to a word register other than CMD (R73 and the register's rule). STATUS, ERR and CLK ignore it; IRQ_STATUS
clears the bits written as 1 (R37); `busWrite` sends a write to CMD to `runCommand` instead. -/
def writeReg (s : State) (r : Reg) (v : Word) : State :=
  match r with
  | .cmd => s
  | .status => s
  | .err => s
  | .irqStatus => s.withIrqStatus (s.irqStatus &&& ~~~(v.setWidth 2))
  | .irqEnable => s.withIrqEnable (v.setWidth 2)
  | .fSender => s.withFields { s.fields with sender := v }
  | .fAmount => s.withFields { s.fields with amount := v }
  | .fTs => s.withFields { s.fields with ts := v }
  | .fNonce => s.withFields { s.fields with nonce := v.setWidth 16 }
  | .now => s.withNow v
  | .window => s.withWindow v
  | .clk => s
  | .txBitdur => s.withTxBitdur v
  | .txGapdur => s.withTxGapdur v
  | .rxPeriod => s.withRxPeriod v
  | .bufLen => s.withBufLen (lengthAfterWrite Config.bufCap s.bufLen v)
  | .payLen => s.withPayLen (lengthAfterWrite Config.payCap s.payLen v)
  | .sigLen => s.withSigLen (lengthAfterWrite Config.sigCap s.sigLen v)
  | .bitLen => s.withBitLen (lengthAfterWrite Config.bitCap s.bitLen v)

/-- A write of `w` to CMD: the command it names runs to its end, an illegal word raises CmdError (R102, R104). -/
def runCommand (w : Word) (s : State) : Host.Outcome State Fault Refusal :=
  match decode w with
  | .ok i => exec i s
  | .error _ => .next (s.raiseIllegal w)

/-! ### Host accesses -/

/-- What a host read returns, as one number (R72, R74, R76), or why it has no result. -/
def busRead (s : State) (size : Size) (a : Nat) : Host.Outcome State Fault Refusal :=
  match target size a with
  | .reg r => .next (s.logRead { size := size, addr := a, data := readReg s r })
  | .byteOf _ => .next (s.logRead { size := size, addr := a, data := (Memory.read s.mem a).setWidth 32 })
  | .reserved => .next (s.logRead { size := size, addr := a, data := 0 })
  | .undefined => .refused .undefinedAccess
  | .outside => .fault .outsideRegisterSpace

/-- A write of one byte inside a buffer; CAND ignores it (R50, R75). -/
def writeBufferByte (s : State) (b : Buffer) (a : Nat) (v : Byte) : State :=
  match b with
  | .cand => s
  | _ => s.withMem (Memory.write s.mem a v)

/-- A host write (R73, R75, R76). A byte write stores the low byte of the data (DESIGN CHOICE, safe,
notes/assumptions/14.md). -/
def busWrite (s : State) (size : Size) (a : Nat) (v : Word) : Host.Outcome State Fault Refusal :=
  match target size a with
  | .reg .cmd => runCommand v s
  | .reg r => .next (writeReg s r v)
  | .byteOf b => .next (writeBufferByte s b a (v.setWidth 8))
  | .reserved => .next s
  | .undefined => .refused .undefinedAccess
  | .outside => .fault .outsideRegisterSpace

/-- One host access (R72 to R77). -/
def busAccess (a : Access) (s : State) : Host.Outcome State Fault Refusal :=
  match a with
  | .read size addr => busRead s size addr
  | .write size addr v => busWrite s size addr v

/-! ### Agents, TIME and reset -/

/-- The TX agent's turn: TxComplete if it is enabled, else nothing (R84, R150; DEDUCED, notes/assumptions/6.md). -/
def txAgentTurn (s : State) : State := if s.txCompleteEnabled then txComplete s else s

/-- The RX agent's turn: RxTick if it is enabled, else nothing (R84, R168; DEDUCED, notes/assumptions/6.md). -/
def rxAgentTurn (s : State) : State := if s.rxTickEnabled then rxTick s else s

/-- The instant TIME may reach at most while TX_BUSY = 1: TX_DEADLINE (R84, R150). -/
def txLimit (s : State) (t : Nat) : Nat := if s.txBusy then min t s.txDeadline else t

/-- The instant TIME may reach at most while LISTENING: RX_NEXT (R84, R168). -/
def rxLimit (s : State) (t : Nat) : Nat := if s.rxState = .listening then min t s.rxNext else t

/-- TIME advances by `dt`, or to the nearest deadline of an armed agent if that comes first; it never decreases (R55,
R84; DEDUCED, safe, notes/assumptions/6.md). -/
def advanceTime (s : State) (dt : Nat) : State :=
  s.withEnv { s.env with time := max s.env.time (rxLimit s (txLimit s (s.env.time + dt))) }

/-- The reset step (R240 to R242): every piece of state of the CORE takes its reset value and the capture resource is
released if held; the environment, the outputs already given and the events to come are not state of the CORE
(notes/assumptions/13.md). -/
def resetStep (s : State) : State :=
  ((State.reset.withEnv s.env).withOut s.releaseCapture.out).withPending s.pending

/-- One event of a run (R15, R84). -/
def takeEvent (e : Event) (s : State) : Host.Outcome State Fault Refusal :=
  match e with
  | .bus a => busAccess a s
  | .txTurn => .next (txAgentTurn s)
  | .rxTurn => .next (rxAgentTurn s)
  | .time dt => .next (advanceTime s dt)
  | .clock v => .next (s.withEnv { s.env with clock := v })
  | .playOk b => .next (s.withEnv { s.env with playOk := b })
  | .capOk b => .next (s.withEnv { s.env with capOk := b })
  | .frame e => .next (s.withEnv { s.env with frame := e })
  | .reset => .next (resetStep s)

/-- One step of a run: the next pending event; with none pending nothing happens (DESIGN CHOICE,
safe, notes/assumptions/5.md). -/
def takeNext (s : State) : Host.Outcome State Fault Refusal :=
  match s.pending with
  | [] => .next s
  | e :: rest => takeEvent e (s.withPending rest)

/-- The events with a write of a command word to CMD put first (R35, R102). -/
def commandFirst (w : Word) (events : List Event) : List Event := .bus (.write .word Reg.cmd.addr w) :: events

end Sys2Proof.Machine
end

