-- ==== Sys2Proof/Machine/Step.lean ====
section
/-! DEFINITION. One step of the machine (spec 00_scope.md R15), and placing a command where the next step runs it. -/

namespace Sys2Proof.Machine

/-- One atomic step: the next event of the run (R15, R84). -/
def step (s : State) : Host.Outcome State Fault Refusal := takeNext s

/-- The state whose next step is the host's write of the table word to CMD (R35, R102; DESIGN CHOICE, safe, notes/assumptions/5.md). A table
word longer than a command word stands for no command and changes nothing (notes/assumptions/20.md). -/
def State.withFetchWord (s : State) (nbits w : Nat) : State :=
  match tableWord nbits w with
  | some v => s.withPending (commandFirst v s.pending)
  | none => s

end Sys2Proof.Machine
end

