-- ==== Sys2Proof/Machine/Script.lean ====
section
/-! DEFINITION. Host scripts: the script operations of spec 30_encoding.md R107, the bus accesses each stands for, and the
macros SEND (R112), RECEIVE (R113) and the long form of the validation (R114). The hardware knows nothing of a macro
(R109); a script is a list of events like any other. -/

namespace Sys2Proof.Machine

/-- The script operations (R107). `wait` carries how many reads it took until its condition held: the host decides that,
not the CORE (R108; DESIGN CHOICE, safe, notes/assumptions/18.md). -/
inductive ScriptOp where
  | wr (r : Reg) (v : Word)
  | rd (r : Reg)
  | wb (b : Buffer) (j : Nat) (v : Byte)
  | wbs (b : Buffer) (vs : List Byte)
  | rb (b : Buffer) (j : Nat)
  | cmd (i : Instr)
  | wait (r : Reg) (polls : Nat)
  deriving DecidableEq, Repr

/-- `MemWrite(addr(reg), 4, v)`. -/
def writeRegister (r : Reg) (v : Word) : Access := .write .word r.addr v

/-- `MemRead(addr(reg), 4)`. -/
def readRegister (r : Reg) : Access := .read .word r.addr

/-- `MemWrite(base(buf) + j, 1, v)`. -/
def writeByte (b : Buffer) (j : Nat) (v : Byte) : Access := .write .byte (b.base + j) (v.setWidth 32)

/-- `MemRead(base(buf) + j, 1)`. -/
def readByte (b : Buffer) (j : Nat) : Access := .read .byte (b.base + j)

/-- `MemWrite(0x000, 4, word(mnemonic))`. -/
def issue (i : Instr) : Access := .write .word Reg.cmd.addr (encode i)

/-- The bus accesses of a script operation (R107). -/
def ScriptOp.accesses : ScriptOp → List Access
  | .wr r v => [writeRegister r v]
  | .rd r => [readRegister r]
  | .wb b j v => [writeByte b j v]
  | .wbs b vs => vs.mapIdx fun j v => writeByte b j v
  | .rb b j => [readByte b j]
  | .cmd i => [issue i]
  | .wait r polls => List.replicate polls (readRegister r)

/-- The events of a script with nothing else happening in between. -/
def scriptEvents (ops : List ScriptOp) : List Event := (ops.flatMap ScriptOp.accesses).map .bus

/-- SEND up to the reading of ERR (R112). -/
def sendIssue : List ScriptOp :=
  [.cmd .payPack, .cmd .authSign, .cmd .pktEncode, .cmd .frameBuild, .cmd .txSend, .rd .err]

/-- The rest of SEND, if ERR = 0 (R112). -/
def sendFinish (polls : Nat) : List ScriptOp := [.wait .irqStatus polls, .wr .irqStatus 1]

/-- RECEIVE up to the reading of ERR (R113). -/
def receiveStart : List ScriptOp := [.cmd .rxStart, .rd .err]

/-- The rest of RECEIVE, if ERR = 0; `clk` is the value the host's read of CLK returned (R113). -/
def receiveFinish (polls : Nat) (clk : Word) : List ScriptOp :=
  [.wait .irqStatus polls, .wr .irqStatus 2, .cmd .candLoad, .rd .clk, .wr .now clk, .cmd .validate, .rd .err]

/-- The long form of the validation (R114). -/
def longValidation : List ScriptOp := [.cmd .pktDecode, .cmd .payPack, .cmd .authVerify, .cmd .authFresh, .rd .status]

/-- Taking events one after another, stopping at the first fault or refusal (R84). -/
def runEvents : List Event → State → Host.Outcome State Fault Refusal
  | [], s => .next s
  | e :: es, s =>
    match takeEvent e s with
    | .next t => runEvents es t
    | .fault f => .fault f
    | .refused r => .refused r

/-- Issuing commands one after another (R83), stopping at the first fault or refusal. -/
def runCommands : List Instr → State → Host.Outcome State Fault Refusal
  | [], s => .next s
  | i :: is, s =>
    match exec i s with
    | .next t => runCommands is t
    | .fault f => .fault f
    | .refused r => .refused r

end Sys2Proof.Machine
end

