-- ==== Sys2Proof/Safety.lean ====
section
/-! DEFINITION. What holds of every state of a run: the legal values of the registers, the bounds of the buffers, the
decoder's invariant, the timers and the capture resource. Statements about the machine are made in these terms. -/

namespace Sys2Proof.Machine

/-- Every entry of the memory lies inside one of the five buffers (R71). -/
abbrev Memory.inBuffers (m : Memory) : Prop := ∀ c ∈ m, (bufferAt c.1).isSome = true

/-- The length registers hold legal values (R42 to R46). -/
abbrev State.lengthsLegal (s : State) : Prop :=
  s.bufLen ≤ Config.bufCap ∧ s.payLen ≤ Config.payCap ∧ s.sigLen ≤ Config.sigCap ∧ s.bitLen ≤ Config.bitCap

/-- Between steps RX_STATE is IDLE, LISTENING or STOPPED (R34). -/
abbrev State.rxSettled (s : State) : Prop := s.rxState = .idle ∨ s.rxState = .listening ∨ s.rxState = .stopped

/-- RXBUF holds at most 432 bits, and none unless the decoder listens (R52, R160, R171). -/
abbrev State.rxBufBounded (s : State) : Prop :=
  s.rxBuf.length ≤ Config.rxCap ∧ (s.rxState ≠ .listening → s.rxBuf = [])

/-- A bit buffer contains no preamble whose 208 following bits it holds too (R176). -/
def noFullWindow (buf : List Bool) : Prop := ∀ i, preambleAt buf i = true → buf.length < i + Config.frameBits

/-- TIME has not passed the deadline of an armed agent, and an armed sampling timer has a positive period (R84). -/
abbrev State.timersAhead (s : State) : Prop :=
  (s.txBusy = true → s.env.time ≤ s.txDeadline) ∧ (s.rxState = .listening → s.env.time ≤ s.rxNext ∧ s.rxP ≠ 0)

/-- The capture resource is held exactly when the last signal to the capture device was a request (R164, R227). -/
abbrev State.captureAccounted (s : State) : Prop :=
  s.captureHeld = true ↔ s.out.captures.getLast? = some .request

/-- ERR is 0 or the word of some opcode byte and error kind (R36, R212). -/
def State.errLegal (s : State) : Prop := s.err = 0 ∨ ∃ op k, s.err = errWord op k

/-- What every step keeps. -/
structure State.Inv (s : State) : Prop where
  memWf : Memory.wf s.mem
  memInBuffers : Memory.inBuffers s.mem
  lengths : s.lengthsLegal
  settled : s.rxSettled
  rxBufBound : s.rxBufBounded
  noWindow : noFullWindow s.rxBuf
  timers : s.timersAhead
  capture : s.captureAccounted
  err : s.errLegal

/-- A run is safe as long as it meets neither a fault nor a refusal. -/
def isNext : Host.Outcome State Fault Refusal → Bool
  | .next _ => true
  | .fault _ => false
  | .refused _ => false

end Sys2Proof.Machine
end

