-- ==== Sys2Proof/Certificates/Slice0/Obligations.lean ====
section
/-! DEFINITION. The statements for the provers, one per rule or group of rules of spec/. A statement of an instruction's
result gives the next state as an update of the old one, so that it also says what the instruction leaves unchanged; the
bytes of memory are given by what a read of each address answers. -/

open Sys2Proof Sys2Proof.Machine

/-! ### Encoding -/

/-- R100, R102, R103: a word decodes to a command exactly when it is that command's word, so the fourteen words are the
only ones that decode and no bit of a word is ignored. -/
def Obligations.DecodeMatchesEncode : Prop :=
  ∀ (w : Word) (i : Instr), decode w = .ok i ↔ w = encode i

/-- R103: the words of the opcode map, as the table prints them. -/
def Obligations.OpcodeMapDecodes : Prop :=
  decode 0x00000001 = .ok .payPack ∧ decode 0x00000002 = .ok .pktEncode ∧ decode 0x00000003 = .ok .pktDecode ∧
  decode 0x00000004 = .ok .bitsFromBytes ∧ decode 0x00000005 = .ok .bytesFromBits ∧
  decode 0x00000006 = .ok .frameBuild ∧ decode 0x00000010 = .ok .authSign ∧ decode 0x00000011 = .ok .authVerify ∧
  decode 0x00000012 = .ok .authFresh ∧ decode 0x00000013 = .ok .validate ∧ decode 0x00000020 = .ok .txSend ∧
  decode 0x00000030 = .ok .rxStart ∧ decode 0x00000031 = .ok .rxStop ∧ decode 0x00000032 = .ok .candLoad

/-- R104: every word the opcode map does not list raises CmdError: ERR is (w[7:0] << 8) | 5 and nothing else changes. -/
def Obligations.IllegalWordRaisesCmdError : Prop :=
  ∀ (w : Word) (s : State),
    w ∉ ([0x01, 0x02, 0x03, 0x04, 0x05, 0x06, 0x10, 0x11, 0x12, 0x13, 0x20, 0x30, 0x31, 0x32] : List Word) →
    busAccess (.write .word 0x000 w) s = .next { s with err := ((w &&& 0xFF) <<< 8) ||| 5 }

/-- R35, R102: when the next event is the host's write of a word to CMD and the word decodes to a command, the step is
that command's meaning, on the state from which the event has been taken. -/
def Obligations.StepRunsDecodedCommand : Prop :=
  ∀ (s : State) (rest : List Event) (w : Word) (i : Instr),
    s.pending = .bus (.write .word 0x000 w) :: rest → decode w = .ok i →
    step s = exec i { s with pending := rest }

/-! ### Packet Codec -/

/-- R11, R80: `be32` and `be16` are the big-endian bytes of a number, and `u32` and `u16` read the four or two bytes that stand
at any offset of a byte sequence by place value. -/
def Obligations.ByteOrderIsBigEndian : Prop :=
  (∀ v : Word, (be32 v).map BitVec.toNat =
    [v.toNat / 2 ^ 24, v.toNat / 2 ^ 16 % 2 ^ 8, v.toNat / 2 ^ 8 % 2 ^ 8, v.toNat % 2 ^ 8]) ∧
  (∀ v : Half, (be16 v).map BitVec.toNat = [v.toNat / 2 ^ 8, v.toNat % 2 ^ 8]) ∧
  (∀ (b : List Byte) (o : Nat) (_ : o + 4 ≤ b.length), (u32 b o).toNat =
    b[o].toNat * 2 ^ 24 + b[o + 1].toNat * 2 ^ 16 + b[o + 2].toNat * 2 ^ 8 + b[o + 3].toNat) ∧
  (∀ (b : List Byte) (o : Nat) (_ : o + 2 ≤ b.length), (u16 b o).toNat = b[o].toNat * 2 ^ 8 + b[o + 1].toNat)

/-- R120: PAY_PACK writes PAY[0..13], PAY_LEN and ERR and nothing else; it never raises. -/
def Obligations.PayPackResult : Prop :=
  decode 0x00000001 = .ok .payPack ∧ ∀ s : State, ∃ m : Memory,
    exec .payPack s = .next { s with mem := m, payLen := 14, err := 0 } ∧
    loadBytes m 0x140 14 = be32 s.fields.sender ++ be32 s.fields.amount ++ be32 s.fields.ts ++ be16 s.fields.nonce ∧
    ∀ a, a < 0x140 ∨ 0x14E ≤ a → Memory.read m a = Memory.read s.mem a

/-- R121: PKT_ENCODE with SIG_LEN = 8 writes BUF[0..25], BUF_LEN and ERR and nothing else; otherwise it raises
FormatError and changes nothing but ERR. -/
def Obligations.PktEncodeResult : Prop :=
  decode 0x00000002 = .ok .pktEncode ∧ ∀ s : State,
    (s.sigLen = 8 → ∃ m : Memory,
      exec .pktEncode s = .next { s with mem := m, bufLen := 26, err := 0 } ∧
      loadBytes m 0x100 26 = be32 s.fields.sender ++ be32 s.fields.amount ++ be32 s.fields.ts ++ be16 s.fields.nonce ++
        loadBytes s.mem 0x160 8 ++ [0x00, 0x00, 0x00, 0x00] ∧
      ∀ a, a < 0x100 ∨ 0x11A ≤ a → Memory.read m a = Memory.read s.mem a) ∧
    (s.sigLen ≠ 8 → exec .pktEncode s = .next { s with err := 0x0201 })

/-- R122: PKT_DECODE with BUF_LEN = 26 writes the four field registers, SIG[0..7], SIG_LEN and ERR and nothing else;
otherwise it raises FormatError and changes nothing but ERR. -/
def Obligations.PktDecodeResult : Prop :=
  decode 0x00000003 = .ok .pktDecode ∧ ∀ s : State,
    (s.bufLen = 26 → ∃ m : Memory,
      exec .pktDecode s = .next { s with
        fields := { sender := u32 (loadBytes s.mem 0x100 26) 0
                    amount := u32 (loadBytes s.mem 0x100 26) 4
                    ts := u32 (loadBytes s.mem 0x100 26) 8
                    nonce := u16 (loadBytes s.mem 0x100 26) 12 }
        mem := m, sigLen := 8, err := 0 } ∧
      (∀ j < 8, Memory.read m (0x160 + j) = Memory.read s.mem (0x100 + 14 + j)) ∧
      ∀ a, a < 0x160 ∨ 0x168 ≤ a → Memory.read m a = Memory.read s.mem a) ∧
    (s.bufLen ≠ 26 → exec .pktDecode s = .next { s with err := 0x0301 })

/-- R123: BITS_FROM_BYTES writes BITS[0..8·BUF_LEN−1], BIT_LEN and ERR and nothing else, and in the host's byte view
copies BUF to BITS; it never raises. -/
def Obligations.BitsFromBytesResult : Prop :=
  decode 0x00000004 = .ok .bitsFromBytes ∧ ∀ s : State, ∃ m : Memory,
    exec .bitsFromBytes s = .next { s with mem := m, bitLen := 8 * s.bufLen, err := 0 } ∧
    (∀ j < s.bufLen, ∀ i < 8, readBit m (8 * j + i) = (Memory.read s.mem (0x100 + j)).getLsbD (7 - i)) ∧
    (∀ k, 8 * s.bufLen ≤ k → readBit m k = readBit s.mem k) ∧
    (∀ j < s.bufLen, Memory.read m (0x200 + j) = Memory.read s.mem (0x100 + j)) ∧
    ∀ a, a < 0x200 ∨ 0x200 + s.bufLen ≤ a → Memory.read m a = Memory.read s.mem a

/-- R124: BYTES_FROM_BITS writes BUF[0..m−1] with m = floor(BIT_LEN/8), BUF_LEN and ERR and nothing else; trailing bits
are dropped; it never raises. -/
def Obligations.BytesFromBitsResult : Prop :=
  decode 0x00000005 = .ok .bytesFromBits ∧ ∀ s : State, ∃ m : Memory,
    exec .bytesFromBits s = .next { s with mem := m, bufLen := s.bitLen / 8, err := 0 } ∧
    (∀ j < s.bitLen / 8, (Memory.read m (0x100 + j)).toNat =
      ((List.range 8).map fun i => (readBit s.mem (8 * j + i)).toNat * 2 ^ (7 - i)).sum) ∧
    ∀ a, a < 0x100 ∨ 0x100 + s.bitLen / 8 ≤ a → Memory.read m a = Memory.read s.mem a

/-- R125: FRAME_BUILD with BUF_LEN = 26 writes the preamble and the packet bits to BITS[0..215], BIT_LEN and ERR and
nothing else; otherwise it raises FormatError and changes nothing but ERR. -/
def Obligations.FrameBuildResult : Prop :=
  decode 0x00000006 = .ok .frameBuild ∧ ∀ s : State,
    (s.bufLen = 26 → ∃ m : Memory,
      exec .frameBuild s = .next { s with mem := m, bitLen := 216, err := 0 } ∧
      loadBits m 8 = [true, false, true, false, true, false, true, false] ∧
      (∀ j < 26, ∀ i < 8, readBit m (8 + 8 * j + i) = (Memory.read s.mem (0x100 + j)).getLsbD (7 - i)) ∧
      (∀ k, 216 ≤ k → readBit m k = readBit s.mem k) ∧
      loadBytes m 0x200 27 = 0xAA :: loadBytes s.mem 0x100 26 ∧
      ∀ a, a < 0x200 ∨ 0x21B ≤ a → Memory.read m a = Memory.read s.mem a) ∧
    (s.bufLen ≠ 26 → exec .frameBuild s = .next { s with err := 0x0601 })

/-- R127: PKT_ENCODE then PKT_DECODE gives the fields and the signature back; after a PKT_DECODE that did not raise,
PAY_PACK rebuilds BUF[0..13] in PAY, and PKT_ENCODE rewrites BUF[0..21] with the same bytes and BUF[22..25] with zeros. -/
def Obligations.PacketRoundTrip : Prop :=
  (∀ s : State, s.sigLen = 8 → ∃ t, runCommands [.pktEncode, .pktDecode] s = .next t ∧
    t.fields = s.fields ∧ loadBytes t.mem 0x160 8 = loadBytes s.mem 0x160 8 ∧ t.sigLen = s.sigLen ∧ t.bufLen = 26 ∧
    loadBytes t.mem 0x100 26 = packetOf s.fields (loadBytes s.mem 0x160 8)) ∧
  (∀ s : State, s.bufLen = 26 → ∃ t u v, exec .pktDecode s = .next t ∧
    exec .payPack t = .next u ∧ loadBytes u.mem 0x140 14 = loadBytes s.mem 0x100 14 ∧
    exec .pktEncode t = .next v ∧ loadBytes v.mem 0x100 22 = loadBytes s.mem 0x100 22 ∧
    loadBytes v.mem 0x116 4 = [0, 0, 0, 0])

/-- R128: BITS_FROM_BYTES then BYTES_FROM_BITS leaves BUF and BUF_LEN as they were; packing the bits of a byte sequence
gives it back, and the converse holds exactly for bit lengths that are multiples of 8. -/
def Obligations.BitPackingRoundTrip : Prop :=
  (∀ s : State, s.bufLen ≤ 64 → ∃ t, runCommands [.bitsFromBytes, .bytesFromBits] s = .next t ∧
    t.bufLen = s.bufLen ∧ loadBytes t.mem 0x100 s.bufLen = loadBytes s.mem 0x100 s.bufLen) ∧
  (∀ b : List Byte, bytesFromBits (bitsFromBytes b) = b) ∧
  (∀ b : List Bool, bitsFromBytes (bytesFromBits b) = b ↔ b.length % 8 = 0) ∧
  (∀ b : List Bool, (bytesFromBits b).length = b.length / 8)

/-- R129: after FRAME_BUILD, bytesFromBits(BITS[8..215]) = BUF[0..25]. -/
def Obligations.FrameRoundTrip : Prop :=
  ∀ s : State, s.bufLen = 26 → ∃ t, exec .frameBuild s = .next t ∧
    bytesFromBits ((loadBits t.mem 216).drop 8) = loadBytes t.mem 0x100 26 ∧
    loadBytes t.mem 0x100 26 = loadBytes s.mem 0x100 26

/-! ### Authenticator -/

/-- R190: AUTH_SIGN writes DIGEST(PAY ‖ SECRET)[0..7] to SIG[0..7], SIG_LEN and ERR and nothing else; it never raises. -/
def Obligations.AuthSignResult : Prop :=
  decode 0x00000010 = .ok .authSign ∧ ∀ s : State, ∃ m : Memory,
    exec .authSign s = .next { s with mem := m, sigLen := 8, err := 0 } ∧
    loadBytes m 0x160 8 = (Config.digest (loadBytes s.mem 0x140 s.payLen ++ Config.secret)).toList.take 8 ∧
    ∀ a, a < 0x160 ∨ 0x168 ≤ a → Memory.read m a = Memory.read s.mem a

/-- R192: AUTH_VERIFY writes VOK and ERR and nothing else; VOK is 1 exactly when SIG_LEN = 8 and each of the eight bytes
agrees; it never raises. -/
def Obligations.AuthVerifyResult : Prop :=
  decode 0x00000011 = .ok .authVerify ∧ ∀ s : State, ∃ b : Bool,
    exec .authVerify s = .next { s with vok := b, err := 0 } ∧
    (b = true ↔ s.sigLen = 8 ∧ ∀ j < 8,
      (Config.digest (loadBytes s.mem 0x140 s.payLen ++ Config.secret)).toList[j]? = some (Memory.read s.mem (0x160 + j)))

/-- R193: AUTH_SIGN then AUTH_VERIFY gives VOK = 1 for every payload; from there, changing exactly one signature byte to
a different value gives VOK = 0, and changing a payload byte gives VOK = 1 exactly when the first eight digest bytes agree. -/
def Obligations.SignatureVerifies : Prop :=
  ∀ s : State, s.payLen ≤ 32 → ∃ t, exec .authSign s = .next t ∧
    (∃ u, exec .authVerify t = .next u ∧ u.vok = true) ∧
    (∀ j < 8, ∀ v : Byte, v ≠ Memory.read t.mem (0x160 + j) →
      ∃ u, exec .authVerify { t with mem := Memory.write t.mem (0x160 + j) v } = .next u ∧ u.vok = false) ∧
    (∀ j < 32, ∀ v : Byte, ∃ u,
      exec .authVerify { t with mem := Memory.write t.mem (0x140 + j) v } = .next u ∧
      (u.vok = true ↔
        sig8 (loadBytes (Memory.write t.mem (0x140 + j) v) 0x140 t.payLen) = sig8 (loadBytes t.mem 0x140 t.payLen)))

/-- R194: AUTH_FRESH writes FOK and ERR and nothing else; FOK is 1 exactly when |NOW − F_TS| ≤ WINDOW in the integers. -/
def Obligations.AuthFreshResult : Prop :=
  decode 0x00000012 = .ok .authFresh ∧ ∀ s : State, ∃ b : Bool,
    exec .authFresh s = .next { s with fok := b, err := 0 } ∧
    (b = true ↔ |(s.now.toNat : Int) - (s.fields.ts.toNat : Int)| ≤ (s.window.toNat : Int))

/-- R195: the corner cases of the freshness check: two-sided, boundary inclusive, WINDOW = 0, WINDOW = 2^32 − 1, no
modular arithmetic, and the clock port is not read. -/
def Obligations.FreshnessCorners : Prop :=
  ∀ s : State, ∃ t, exec .authFresh s = .next t ∧
    (s.now.toNat = s.fields.ts.toNat + s.window.toNat → t.fok = true) ∧
    (s.fields.ts.toNat = s.now.toNat + s.window.toNat → t.fok = true) ∧
    (s.now.toNat > s.fields.ts.toNat + s.window.toNat → t.fok = false) ∧
    (s.fields.ts.toNat > s.now.toNat + s.window.toNat → t.fok = false) ∧
    (s.window = 0 → (t.fok = true ↔ s.now = s.fields.ts)) ∧
    (s.window = 0xFFFFFFFF → t.fok = true) ∧
    (s.fields.ts = 0 → s.now = 0xFFFFFFFF → (t.fok = true ↔ s.window = 0xFFFFFFFF)) ∧
    ∀ c : Word, ∃ u, exec .authFresh { s with env := { s.env with clock := c } } = .next u ∧ u.fok = t.fok

/-- R196, R214: VALIDATE's four outcomes, tested in the order length, signature, freshness; BUF_LEN becomes 0 in every
outcome, the fields are delivered on success only, and nothing else but ERR changes. -/
def Obligations.ValidateResult : Prop :=
  decode 0x00000013 = .ok .validate ∧ ∀ s : State,
    (s.bufLen ≠ 26 → exec .validate s = .next { s with bufLen := 0, err := 0x1301 }) ∧
    (s.bufLen = 26 → sig8 (loadBytes s.mem 0x100 14) ≠ loadBytes s.mem 0x10E 8 →
      exec .validate s = .next { s with bufLen := 0, err := 0x1302 }) ∧
    (s.bufLen = 26 → sig8 (loadBytes s.mem 0x100 14) = loadBytes s.mem 0x10E 8 →
      |(s.now.toNat : Int) - ((u32 (loadBytes s.mem 0x100 26) 8).toNat : Int)| > (s.window.toNat : Int) →
      exec .validate s = .next { s with bufLen := 0, err := 0x1303 }) ∧
    (s.bufLen = 26 → sig8 (loadBytes s.mem 0x100 14) = loadBytes s.mem 0x10E 8 →
      |(s.now.toNat : Int) - ((u32 (loadBytes s.mem 0x100 26) 8).toNat : Int)| ≤ (s.window.toNat : Int) →
      exec .validate s = .next { s with
        fields := { sender := u32 (loadBytes s.mem 0x100 26) 0
                    amount := u32 (loadBytes s.mem 0x100 26) 4
                    ts := u32 (loadBytes s.mem 0x100 26) 8
                    nonce := u16 (loadBytes s.mem 0x100 26) 12 }
        bufLen := 0, err := 0 })

/-- R200: the packet PAY_PACK, AUTH_SIGN and PKT_ENCODE build passes VALIDATE exactly when it is fresh, and VALIDATE
writes the same fields back whatever the field registers hold by then; it still passes with bytes 22 to 25 altered, raises AuthError with any of bytes 14 to 21
altered, and with a byte of 0 to 13 altered except on a collision of the first eight digest bytes. -/
def Obligations.SendThenValidate : Prop :=
  ∀ (s : State) (f : Fields), ∃ t, runCommands [.payPack, .authSign, .pktEncode] s = .next t ∧ t.fields = s.fields ∧
    t.now = s.now ∧ t.window = s.window ∧
    (isFresh s.fields.ts s.now s.window = true →
      exec .validate { t with fields := f } = .next { t with fields := s.fields, bufLen := 0, err := 0 } ∧
      ∀ j, 22 ≤ j → j < 26 → ∀ v : Byte,
        exec .validate { t with fields := f, mem := Memory.write t.mem (0x100 + j) v } =
          .next { t with fields := s.fields, mem := Memory.write t.mem (0x100 + j) v, bufLen := 0, err := 0 }) ∧
    (isFresh s.fields.ts s.now s.window = false →
      exec .validate { t with fields := f } = .next { t with fields := f, bufLen := 0, err := 0x1303 }) ∧
    (∀ j, 14 ≤ j → j < 22 → ∀ v : Byte, v ≠ Memory.read t.mem (0x100 + j) →
      exec .validate { t with fields := f, mem := Memory.write t.mem (0x100 + j) v } =
        .next { t with fields := f, mem := Memory.write t.mem (0x100 + j) v, bufLen := 0, err := 0x1302 }) ∧
    (∀ j < 14, ∀ v : Byte, ∃ u,
      exec .validate { t with fields := f, mem := Memory.write t.mem (0x100 + j) v } = .next u ∧
      (u.err = 0x1302 ↔
        sig8 (loadBytes (Memory.write t.mem (0x100 + j) v) 0x100 14) ≠ sig8 (loadBytes t.mem 0x100 14)))

/-- R199: no replay suppression: after a VALIDATE that succeeded, the same bytes presented again succeed again, at every
NOW whose distance from their timestamp is at most WINDOW, and whatever the field registers hold by then. -/
def Obligations.ReplayIsAccepted : Prop :=
  ∀ (s t : State) (n : Word) (f : Fields), exec .validate s = .next t → t.err = 0 →
    |(n.toNat : Int) - (t.fields.ts.toNat : Int)| ≤ (t.window.toNat : Int) →
    exec .validate { t with bufLen := 26, now := n, fields := f } = .next { t with now := n }

/-- R114: the long form of the validation checks the same three things as VALIDATE. -/
def Obligations.LongValidationAgrees : Prop :=
  ∀ s : State, s.bufLen = 26 → ∃ t v,
    runCommands [.pktDecode, .payPack, .authVerify, .authFresh] s = .next t ∧ exec .validate s = .next v ∧
    loadBytes t.mem 0x140 14 = loadBytes s.mem 0x100 14 ∧
    (t.vok = true ∧ t.fok = true ↔ v.err = 0) ∧ (t.vok = false ↔ v.err = 0x1302)

/-! ### Modem Encoder -/

/-- R140, R144, R145, R147, R148: a TX_SEND that is neither busy nor turned away emits one record with one burst per bit
of BITS, sets TX_BUSY and TX_DEADLINE, writes ERR and changes nothing else. -/
def Obligations.TxSendResult : Prop :=
  ∀ s : State, s.txBusy = false → s.env.playOk = true → s.txBitdur ≠ 0 → ∃ bursts : List Burst,
    exec .txSend s = .next { s with
      txBusy := true
      txDeadline := s.env.time + (if s.bitLen = 0 then 50000
        else 50000 + s.bitLen * s.txBitdur.toNat + (s.bitLen - 1) * s.txGapdur.toNat) + Config.marginUs
      err := 0
      out := { s.out with tones := s.out.tones ++ [{ t0 := s.env.time, bursts := bursts }] } } ∧
    bursts.length = s.bitLen ∧
    ∀ k < s.bitLen, bursts[k]? = some
      { start := s.env.time + 50000 + k * (s.txBitdur.toNat + s.txGapdur.toNat)
        freq := if readBit s.mem k then 19500 else 18500
        dur := s.txBitdur.toNat
        ramp := min 4000 (s.txBitdur.toNat / 4) }

/-- R141, R142, R214: a TX_SEND while busy raises CmdError before the draw; a false play_ok raises DeviceError; neither
changes anything but ERR. That a send while busy is an error and not a refusal (U3) is the spec's own decision, followed by
the model's choice (notes/assumptions/7.md); that both errors come before the test of TX_BITDUR = 0 is the model's reading
(notes/assumptions/8.md). -/
def Obligations.TxSendErrors : Prop :=
  ∀ s : State,
    (s.txBusy = true → exec .txSend s = .next { s with err := 0x2005 }) ∧
    (s.txBusy = false → s.env.playOk = false → exec .txSend s = .next { s with err := 0x2004 })

/-- U6: TX_SEND with TX_BITDUR = 0 and RX_START with RX_PERIOD = 0 are refused once neither of their errors applies. That
the errors are tested first is the model's reading (notes/assumptions/8.md). -/
def Obligations.ZeroDurationsAreRefused : Prop :=
  ∀ s : State,
    (s.txBusy = false → s.env.playOk = true → s.txBitdur = 0 → exec .txSend s = .refused .zeroBitDuration) ∧
    (s.rxState ≠ .listening → s.env.capOk = true → s.rxPeriod = 0 → exec .rxStart s = .refused .zeroSamplePeriod)

/-- R144, R148: in the record of n ≥ 1 bits the first burst starts LEAD after t0, the next start is D + G later, and the
last burst ends Tsched after t0. -/
def Obligations.ScheduleSpacing : Prop :=
  ∀ (t0 d g : Nat) (bits : List Bool), bits ≠ [] → ∃ first last : Burst,
    (scheduleOf t0 d g bits).bursts.head? = some first ∧ first.start = t0 + 50000 ∧
    (scheduleOf t0 d g bits).bursts.getLast? = some last ∧ last.start + last.dur = t0 + totalScheduled bits.length d g ∧
    ∀ k b c, (scheduleOf t0 d g bits).bursts[k]? = some b → (scheduleOf t0 d g bits).bursts[k + 1]? = some c →
      b.start + b.dur + g = c.start ∧ b.start + (d + g) = c.start

/-- R145: the envelope lies between 0 and 1, is symmetric, is 1 on the flat part, starts and ends at 0 when there is a
ramp, and the two ramps never overlap. -/
def Obligations.EnvelopeShape : Prop :=
  ∀ (d : Nat) (tau : Rat), 0 ≤ tau → tau ≤ d →
    0 ≤ envelope d tau ∧ envelope d tau ≤ 1 ∧ envelope d ((d : Rat) - tau) = envelope d tau ∧
    ((rampLen d : Rat) ≤ tau → tau ≤ (d : Rat) - rampLen d → envelope d tau = 1) ∧
    (0 < rampLen d → envelope d 0 = 0 ∧ envelope d d = 0) ∧ 4 * rampLen d ≤ d ∧ rampLen d ≤ 4000

/-- R150: TxComplete, enabled when TX_BUSY = 1 and TIME = TX_DEADLINE, clears TX_BUSY and sets TX_DONE and writes nothing
else. That a turn of the TX agent while TxComplete is not enabled changes nothing is the model's reading of R84
(notes/assumptions/6.md). -/
def Obligations.TxCompleteStep : Prop :=
  ∀ (s : State) (rest : List Event), s.pending = .txTurn :: rest →
    (s.txBusy = true ∧ s.env.time = s.txDeadline →
      step s = .next { s with pending := rest, txBusy := false, irqStatus := s.irqStatus ||| 1 }) ∧
    (¬ (s.txBusy = true ∧ s.env.time = s.txDeadline) → step s = .next { s with pending := rest })

/-- R32, R106, R149: no command, legal or illegal, clears TX_BUSY, moves TX_DEADLINE or retracts a record while a send is
in flight; TX_BUSY is cleared by TxComplete at the deadline and by reset, and by nothing else. -/
def Obligations.NothingCancelsSend : Prop :=
  ∀ (e : Event) (s t : State), s.txBusy = true → takeEvent e s = .next t →
    (∀ w, e = .bus (.write .word 0x000 w) → t.txBusy = true) ∧
    (t.txBusy = true → t.txDeadline = s.txDeadline) ∧ t.out.tones = s.out.tones ∧
    (t.txBusy = false → e = .reset ∨ (e = .txTurn ∧ s.env.time = s.txDeadline))

/-! ### Modem Decoder -/

/-- R160: an RX_START from IDLE or STOPPED with cap_ok true empties RXBUF, latches RX_PERIOD, sets RX_NEXT one period
from TIME, requests the capture resource, goes to LISTENING, writes ERR and changes nothing else. -/
def Obligations.RxStartResult : Prop :=
  ∀ s : State, s.rxState ≠ .listening → s.env.capOk = true → s.rxPeriod ≠ 0 →
    exec .rxStart s = .next { s with
      rxBuf := [], rxP := s.rxPeriod, rxNext := s.env.time + s.rxPeriod.toNat, rxState := .listening, err := 0
      out := { s.out with captures := s.out.captures ++ [.request] } }

/-- R161, R162, R214: an RX_START while LISTENING raises CmdError before the draw; a false cap_ok raises DeviceError;
neither changes anything but ERR. That a second start is an error and not a refusal (U4) is the spec's own decision, followed
by the model's choice (notes/assumptions/7.md); that both errors come before the test of RX_PERIOD = 0 is the model's
reading (notes/assumptions/8.md). -/
def Obligations.RxStartErrors : Prop :=
  ∀ s : State,
    (s.rxState = .listening → exec .rxStart s = .next { s with err := 0x3005 }) ∧
    (s.rxState ≠ .listening → s.env.capOk = false → exec .rxStart s = .next { s with err := 0x3004 })

/-- R163, R164: RX_STOP empties RXBUF, goes to STOPPED, writes ERR and changes nothing else; a second RX_STOP changes
nothing. That the release is signalled on the port only if the resource was held is the model's reading of R227
(notes/assumptions/17.md). -/
def Obligations.RxStopResult : Prop :=
  decode 0x00000031 = .ok .rxStop ∧ ∀ s : State, ∃ t, exec .rxStop s = .next t ∧
    t = { s with rxBuf := [], rxState := .stopped, err := 0
                 out := { s.out with captures := s.out.captures ++ if s.captureHeld then [.release] else [] } } ∧
    t.captureHeld = false ∧ exec .rxStop t = .next t

/-- R165: CAND_LOAD with CAND_VALID = 1 copies CAND to BUF[0..25], sets BUF_LEN, clears CAND_VALID, writes ERR and changes
nothing else, and a second one raises CmdError; without a candidate it raises CmdError and changes nothing but ERR. -/
def Obligations.CandLoadResult : Prop :=
  decode 0x00000032 = .ok .candLoad ∧ ∀ s : State,
    (s.candValid = true → ∃ m : Memory,
      exec .candLoad s = .next { s with mem := m, bufLen := 26, candValid := false, err := 0 } ∧
      exec .candLoad { s with mem := m, bufLen := 26, candValid := false, err := 0 } =
        .next { s with mem := m, bufLen := 26, candValid := false, err := 0x3205 } ∧
      (∀ j < 26, Memory.read m (0x100 + j) = Memory.read s.mem (0x180 + j)) ∧
      ∀ a, a < 0x100 ∨ 0x11A ≤ a → Memory.read m a = Memory.read s.mem a) ∧
    (s.candValid = false → exec .candLoad s = .next { s with err := 0x3205 })

/-- R169: the dominant bin is the lowest-numbered bin of greatest energy, and the bit is 1 exactly when its frequency is
strictly above 19000 Hz, tested in integers. -/
def Obligations.ClassificationPicksLowestPeak : Prop :=
  ∀ (fs nfft : Nat) (frame : List Nat) (k : Nat) (e : Nat), frame[k]? = some e → (∀ x ∈ frame, x ≤ e) →
    (∀ j x, j < k → frame[j]? = some x → x < e) →
    dominantBin frame = k ∧ (classifyWith fs nfft frame = true ↔ k * fs > 19000 * nfft) ∧
    (classify frame = true ↔ k * Config.fsHz > 19000 * Config.nfft)

/-- R170, R171: a tick appends one bit to a buffer of at most 432, dropping the oldest only when the buffer is full, so
that the bound is kept. -/
def Obligations.BufferBoundKept : Prop :=
  ∀ (buf : List Bool) (b : Bool), buf.length ≤ 432 →
    appendBit buf b = (if buf.length = 432 then buf.tail ++ [b] else buf ++ [b]) ∧ (appendBit buf b).length ≤ 432

/-- R173: an enabled RxTick whose first preamble match has its full window writes CAND, sets CAND_VALID and RX_CAND, empties
RXBUF, releases the capture resource, goes to STOPPED and changes nothing else. -/
def Obligations.TickEmitsCandidate : Prop :=
  ∀ (s : State) (rest : List Event) (buf : List Bool) (i : Nat), s.pending = .rxTurn :: rest →
    s.rxState = .listening → s.env.time = s.rxNext → buf = appendBit s.rxBuf (classify (spectralFrame s)) →
    (buf.drop i).take 8 = [true, false, true, false, true, false, true, false] →
    (∀ j < i, (buf.drop j).take 8 ≠ [true, false, true, false, true, false, true, false]) → i + 216 ≤ buf.length →
    ∃ m : Memory,
      step s = .next { s with
        pending := rest, mem := m, candValid := true, irqStatus := s.irqStatus ||| 2, rxBuf := [], rxState := .stopped
        out := { s.out with captures := s.out.captures ++ [.release] } } ∧
      loadBytes m 0x180 26 = bytesFromBits ((buf.drop (i + 8)).take 208) ∧
      ∀ a, a < 0x180 ∨ 0x19A ≤ a → Memory.read m a = Memory.read s.mem a

/-- R174: an enabled RxTick with no match, or whose first match has no full window, keeps the buffer, goes on listening
and moves RX_NEXT one period on; nothing else changes. That a turn of the RX agent while RxTick is not enabled changes nothing is the
model's reading of R84 (notes/assumptions/6.md). -/
def Obligations.TickDefers : Prop :=
  ∀ (s : State) (rest : List Event) (buf : List Bool), s.pending = .rxTurn :: rest →
    buf = appendBit s.rxBuf (classify (spectralFrame s)) →
    (s.rxState = .listening → s.env.time = s.rxNext →
      (∀ i, (buf.drop i).take 8 = [true, false, true, false, true, false, true, false] →
        (∀ j < i, (buf.drop j).take 8 ≠ [true, false, true, false, true, false, true, false]) → buf.length < i + 216) →
      step s = .next { s with pending := rest, rxBuf := buf, rxNext := s.rxNext + s.rxP.toNat }) ∧
    (¬ (s.rxState = .listening ∧ s.env.time = s.rxNext) → step s = .next { s with pending := rest })

/-- R177, R179: with RXBUF empty, the 216 bits of the frame of any packet, one per tick, give exactly one candidate, at the
last bit, and it is the packet. -/
def Obligations.NoiselessFrameIsRecovered : Prop :=
  ∀ (s : State) (p : List Byte), p.length = 26 → s.rxState = .listening → s.rxBuf = [] →
    (∀ n < 216, (((frameOf p).take n).foldl absorbBit s).rxState = .listening ∧
      (((frameOf p).take n).foldl absorbBit s).rxBuf = (frameOf p).take n ∧
      (((frameOf p).take n).foldl absorbBit s).mem = s.mem) ∧
    ((frameOf p).foldl absorbBit s).rxState = .stopped ∧ ((frameOf p).foldl absorbBit s).rxBuf = [] ∧
    ((frameOf p).foldl absorbBit s).candValid = true ∧
    loadBytes ((frameOf p).foldl absorbBit s).mem 0x180 26 = p

/-- R34, R175: the transitions of RX_STATE, complete. -/
def Obligations.RxStateTransitions : Prop :=
  ∀ (e : Event) (s t : State), s.rxSettled → takeEvent e s = .next t →
    t.rxState = s.rxState ∨
    (s.rxState ≠ .listening ∧ t.rxState = .listening ∧ s.env.capOk = true ∧ e = .bus (.write .word 0x000 0x30)) ∨
    (t.rxState = .stopped ∧ e = .bus (.write .word 0x000 0x31)) ∨
    (s.rxState = .listening ∧ t.rxState = .stopped ∧ e = .rxTurn ∧ s.env.time = s.rxNext ∧ t.candValid = true) ∨
    (t.rxState = .idle ∧ e = .reset)

/-- R50, R89: the bytes of CAND change only by an RxTick that also takes the decoder to STOPPED, and by reset. -/
def Obligations.CandidateIsStable : Prop :=
  ∀ (e : Event) (s t : State), s.lengthsLegal → takeEvent e s = .next t →
    (∀ a, 0x180 ≤ a → a < 0x19A → Memory.read t.mem a = Memory.read s.mem a) ∨
    (e = .rxTurn ∧ s.rxState = .listening ∧ t.rxState = .stopped) ∨ e = .reset

/-! ### The register space -/

/-- R72 and the registers' own rules: a word read at each of the nineteen addresses returns the register's value,
zero-extended, and changes no state of the CORE. -/
def Obligations.RegisterReads : Prop :=
  ∀ (s : State) (a : Nat) (v : Word),
    (a, v) ∈ [(0x000, 0), (0x004, s.statusWord), (0x008, s.err), (0x00C, s.irqStatus.setWidth 32),
      (0x010, s.irqEnable.setWidth 32), (0x014, s.fields.sender), (0x018, s.fields.amount), (0x01C, s.fields.ts),
      (0x020, s.fields.nonce.setWidth 32), (0x024, s.now), (0x028, s.window), (0x02C, s.env.clock),
      (0x030, s.txBitdur), (0x034, s.txGapdur), (0x038, s.rxPeriod), (0x03C, BitVec.ofNat 32 s.bufLen),
      (0x040, BitVec.ofNat 32 s.payLen), (0x044, BitVec.ofNat 32 s.sigLen), (0x048, BitVec.ofNat 32 s.bitLen)] →
    busAccess (.read .word a) s =
      .next { s with out := { s.out with reads := s.out.reads ++ [{ size := .word, addr := a, data := v }] } }

/-- R21 to R24, R28, R35 to R46, R73: a word write to CMD runs the command; what a word write to each other register
changes, and that it changes nothing else: read-only registers ignore it, IRQ_STATUS clears the bits written as 1, F_NONCE and IRQ_ENABLE keep their
width, a length register ignores a value above its maximum. -/
def Obligations.RegisterWrites : Prop :=
  ∀ (s : State) (v : Word),
    (∀ i, decode v = .ok i → busAccess (.write .word 0x000 v) s = exec i s) ∧
    busAccess (.write .word 0x004 v) s = .next s ∧
    busAccess (.write .word 0x008 v) s = .next s ∧
    busAccess (.write .word 0x00C v) s = .next { s with irqStatus := s.irqStatus &&& ~~~ v.setWidth 2 } ∧
    busAccess (.write .word 0x010 v) s = .next { s with irqEnable := v.setWidth 2 } ∧
    busAccess (.write .word 0x014 v) s = .next { s with fields := { s.fields with sender := v } } ∧
    busAccess (.write .word 0x018 v) s = .next { s with fields := { s.fields with amount := v } } ∧
    busAccess (.write .word 0x01C v) s = .next { s with fields := { s.fields with ts := v } } ∧
    busAccess (.write .word 0x020 v) s = .next { s with fields := { s.fields with nonce := v.setWidth 16 } } ∧
    busAccess (.write .word 0x024 v) s = .next { s with now := v } ∧
    busAccess (.write .word 0x028 v) s = .next { s with window := v } ∧
    busAccess (.write .word 0x02C v) s = .next s ∧
    busAccess (.write .word 0x030 v) s = .next { s with txBitdur := v } ∧
    busAccess (.write .word 0x034 v) s = .next { s with txGapdur := v } ∧
    busAccess (.write .word 0x038 v) s = .next { s with rxPeriod := v } ∧
    busAccess (.write .word 0x03C v) s = .next { s with bufLen := if v.toNat ≤ 64 then v.toNat else s.bufLen } ∧
    busAccess (.write .word 0x040 v) s = .next { s with payLen := if v.toNat ≤ 32 then v.toNat else s.payLen } ∧
    busAccess (.write .word 0x044 v) s = .next { s with sigLen := if v.toNat ≤ 16 then v.toNat else s.sigLen } ∧
    busAccess (.write .word 0x048 v) s = .next { s with bitLen := if v.toNat ≤ 512 then v.toNat else s.bitLen }

/-- R74, R75: a byte write inside BUF, PAY, SIG or BITS stores the byte there and changes no other byte, no length and
nothing else, inside CAND it is ignored; a byte read inside a buffer returns the byte, whatever the length registers are. -/
def Obligations.BufferByteAccesses : Prop :=
  ∀ (s : State) (a : Nat) (v : Byte),
    ((0x100 ≤ a ∧ a < 0x170) ∨ (0x200 ≤ a ∧ a < 0x240) →
      ∃ m : Memory, busAccess (.write .byte a (v.setWidth 32)) s = .next { s with mem := m } ∧
        Memory.read m a = v ∧ ∀ b, b ≠ a → Memory.read m b = Memory.read s.mem b) ∧
    (0x180 ≤ a ∧ a < 0x19A → busAccess (.write .byte a (v.setWidth 32)) s = .next s) ∧
    ((0x100 ≤ a ∧ a < 0x170) ∨ (0x180 ≤ a ∧ a < 0x19A) ∨ (0x200 ≤ a ∧ a < 0x240) →
      busAccess (.read .byte a) s = .next { s with out := { s.out with
        reads := s.out.reads ++ [{ size := .byte, addr := a, data := (Memory.read s.mem a).setWidth 32 }] } })

/-- R76: a byte or an aligned word at reserved addresses reads as zero, and a write there is ignored. -/
def Obligations.ReservedAddresses : Prop :=
  ∀ (s : State) (a : Nat) (v : Word),
    ((0x4C ≤ a ∧ a < 0x100) ∨ (0x170 ≤ a ∧ a < 0x180) ∨ (0x19A ≤ a ∧ a < 0x200) ∨ (0x240 ≤ a ∧ a < 0x1000) →
      busAccess (.read .byte a) s = .next { s with out := { s.out with
        reads := s.out.reads ++ [{ size := .byte, addr := a, data := 0 }] } } ∧
      busAccess (.write .byte a v) s = .next s) ∧
    (a % 4 = 0 →
      (0x4C ≤ a ∧ a < 0x100) ∨ (0x170 ≤ a ∧ a < 0x180) ∨ (0x19C ≤ a ∧ a < 0x200) ∨ (0x240 ≤ a ∧ a < 0x1000) →
      busAccess (.read .word a) s = .next { s with out := { s.out with
        reads := s.out.reads ++ [{ size := .word, addr := a, data := 0 }] } } ∧
      busAccess (.write .word a v) s = .next s)

/-- R77, U1: the access shapes with no defined result are refused: a byte or half-word access to a word register, a
misaligned word, a half-word or word access to a buffer, a word straddling CAND's end. That a half-word or a misaligned
word at reserved addresses is one of them is the model's reading (notes/assumptions/9.md). -/
def Obligations.UndefinedShapesAreRefused : Prop :=
  ∀ (s : State) (a : Nat) (v : Word),
    (a < 0x4C → busAccess (.read .byte a) s = .refused .undefinedAccess ∧
      busAccess (.write .byte a v) s = .refused .undefinedAccess) ∧
    (a < 0x1000 → busAccess (.read .half a) s = .refused .undefinedAccess ∧
      busAccess (.write .half a v) s = .refused .undefinedAccess) ∧
    (a < 0x1000 → a % 4 ≠ 0 ∨ (0x100 ≤ a ∧ a < 0x170) ∨ (0x180 ≤ a ∧ a < 0x19A) ∨ (0x200 ≤ a ∧ a < 0x240) →
      busAccess (.read .word a) s = .refused .undefinedAccess ∧
      busAccess (.write .word a v) s = .refused .undefinedAccess)

/-- R28, R216: each bit of STATUS is its flag and the rest are zero; the interrupt line is 1 exactly when an enabled event
is pending. -/
def Obligations.StatusAndInterruptLine : Prop :=
  ∀ s : State,
    s.statusWord.toNat = s.txBusy.toNat +
      2 * (match s.rxState with | .idle => 0 | .listening => 1 | .scanning => 2 | .matchFound => 3 | .stopped => 4) +
      16 * s.vok.toNat + 32 * s.fok.toNat + 64 * s.candValid.toNat ∧
    (s.irq = true ↔ (s.irqStatus.getLsbD 0 = true ∧ s.irqEnable.getLsbD 0 = true) ∨
      (s.irqStatus.getLsbD 1 = true ∧ s.irqEnable.getLsbD 1 = true))

/-! ### Errors, events, flags -/

/-- R212: a command that raises changes nothing but ERR, VALIDATE's BUF_LEN apart; one that does not raise leaves ERR 0. -/
def Obligations.RaiseChangesOnlyErr : Prop :=
  ∀ (i : Instr) (s t : State), exec i s = .next t → t.err ≠ 0 →
    t = { s with err := t.err, bufLen := if i = .validate then 0 else s.bufLen } ∧
    ∃ k : ErrKind, t.err = errWord i.opcode k

/-- R211: which command can raise what, and exactly when. -/
def Obligations.ErrorTable : Prop :=
  ∀ (i : Instr) (s t : State), exec i s = .next t →
    (t.err &&& 0xFF = 1 ↔ (i = .pktEncode ∧ s.sigLen ≠ 8) ∨
      ((i = .pktDecode ∨ i = .frameBuild ∨ i = .validate) ∧ s.bufLen ≠ 26)) ∧
    (t.err &&& 0xFF = 2 ↔ i = .validate ∧ s.bufLen = 26 ∧ sig8 (loadBytes s.mem 0x100 14) ≠ loadBytes s.mem 0x10E 8) ∧
    (t.err &&& 0xFF = 3 ↔ i = .validate ∧ s.bufLen = 26 ∧ sig8 (loadBytes s.mem 0x100 14) = loadBytes s.mem 0x10E 8 ∧
      |(s.now.toNat : Int) - ((u32 (loadBytes s.mem 0x100 26) 8).toNat : Int)| > (s.window.toNat : Int)) ∧
    (t.err &&& 0xFF = 4 ↔ (i = .txSend ∧ s.txBusy = false ∧ s.env.playOk = false) ∨
      (i = .rxStart ∧ s.rxState ≠ .listening ∧ s.env.capOk = false)) ∧
    (t.err &&& 0xFF = 5 ↔ (i = .txSend ∧ s.txBusy = true) ∨ (i = .rxStart ∧ s.rxState = .listening) ∨
      (i = .candLoad ∧ s.candValid = false))

/-- R37, R217: an event bit once set stays set until the host writes a 1 to it, or reset. -/
def Obligations.EventsAreSticky : Prop :=
  ∀ (e : Event) (s t : State) (k : Nat), takeEvent e s = .next t → s.irqStatus.getLsbD k = true →
    t.irqStatus.getLsbD k = true ∨ (∃ v : Word, e = .bus (.write .word 0x00C v) ∧ v.getLsbD k = true) ∨ e = .reset

/-- R29 to R31: VOK is written by AUTH_VERIFY only and FOK by AUTH_FRESH only, reset apart. -/
def Obligations.ResultFlagsHaveOneWriter : Prop :=
  ∀ (e : Event) (s t : State), takeEvent e s = .next t →
    (t.vok = s.vok ∨ e = .bus (.write .word 0x000 0x11) ∨ e = .reset) ∧
    (t.fok = s.fok ∨ e = .bus (.write .word 0x000 0x12) ∨ e = .reset)

/-- R25: of the commands only PKT_DECODE and VALIDATE write the field registers, and none writes NOW, WINDOW or the
duration registers; an error leaves the field registers as they were. -/
def Obligations.OperandRegisterWriters : Prop :=
  ∀ (i : Instr) (s t : State), exec i s = .next t →
    (t.fields = s.fields ∨ ((i = .pktDecode ∨ i = .validate) ∧ t.err = 0)) ∧
    t.now = s.now ∧ t.window = s.window ∧ t.txBitdur = s.txBitdur ∧ t.txGapdur = s.txGapdur ∧ t.rxPeriod = s.rxPeriod

/-! ### Reset, time, whole-machine rules -/

/-- R57: what every register, flag and buffer byte reads as after reset. -/
def Obligations.ResetValues : Prop :=
  State.reset.fields = { sender := 0, amount := 0, ts := 0, nonce := 0 } ∧ State.reset.now = 0 ∧
  State.reset.window = 10 ∧ State.reset.txBitdur = 30000 ∧ State.reset.txGapdur = 4000 ∧ State.reset.rxPeriod = 30000 ∧
  State.reset.bufLen = 0 ∧ State.reset.payLen = 0 ∧ State.reset.sigLen = 0 ∧ State.reset.bitLen = 0 ∧
  State.reset.err = 0 ∧ State.reset.irqStatus = 0 ∧ State.reset.irqEnable = 0 ∧ State.reset.statusWord = 0 ∧
  State.reset.rxState = .idle ∧ (∀ a, Memory.read State.reset.mem a = 0) ∧ State.reset.rxBuf = [] ∧
  State.reset.captureHeld = false

/-- R240, R241, R242: the reset step gives the CORE its reset values and releases the capture resource if held; the
environment's inputs, the records already on the tone port and the events to come stand. -/
def Obligations.ResetStepResult : Prop :=
  ∀ s : State, takeEvent .reset s = .next { State.reset with
    env := s.env, pending := s.pending
    out := { s.out with captures := s.out.captures ++ if s.captureHeld then [.release] else [] } }

/-- R55, R84: TIME never decreases, and a `time` event takes it as far as asked or to the nearest deadline of an armed
agent, whichever comes first: never past TX_DEADLINE while TX_BUSY = 1, never past RX_NEXT while LISTENING. That the event
is cut short there is the model's reading of R84 (notes/assumptions/6.md). -/
def Obligations.TimeStopsAtDeadlines : Prop :=
  ∀ (e : Event) (s t : State), s.timersAhead → takeEvent e s = .next t →
    s.env.time ≤ t.env.time ∧
    ∀ dt, e = .time dt → t.env.time ≤ s.env.time + dt ∧
      (s.txBusy = true → t.env.time ≤ s.txDeadline) ∧ (s.rxState = .listening → t.env.time ≤ s.rxNext) ∧
      (t.env.time = s.env.time + dt ∨ (s.txBusy = true ∧ t.env.time = s.txDeadline) ∨
        (s.rxState = .listening ∧ t.env.time = s.rxNext))

/-- R85, R218: TxComplete and RxTick due at the same TIME may go in either order, with the same result. -/
def Obligations.AgentStepsCommute : Prop :=
  ∀ s : State, s.txCompleteEnabled = true → s.rxTickEnabled = true →
    runEvents [.txTurn, .rxTurn] s = runEvents [.rxTurn, .txTurn] s ∧
    ∃ t, runEvents [.txTurn, .rxTurn] s = .next t ∧ t.txBusy = false ∧ t.irqStatus.getLsbD 0 = true

/-- R244: every command from the reset state, with the device answers of State.reset. -/
def Obligations.FirstCommandAfterReset : Prop :=
  (∃ t, exec .payPack State.reset = .next t ∧ t.err = 0 ∧ t.payLen = 14) ∧
  exec .pktEncode State.reset = .next { State.reset with err := 0x0201 } ∧
  exec .pktDecode State.reset = .next { State.reset with err := 0x0301 } ∧
  exec .frameBuild State.reset = .next { State.reset with err := 0x0601 } ∧
  exec .validate State.reset = .next { State.reset with err := 0x1301 } ∧
  exec .candLoad State.reset = .next { State.reset with err := 0x3205 } ∧
  (∃ t, exec .txSend State.reset = .next t ∧ t.err = 0 ∧ t.out.tones = [{ t0 := 0, bursts := [] }] ∧ t.txBusy = true) ∧
  (∃ t, exec .rxStart State.reset = .next t ∧ t.err = 0 ∧ t.rxState = .listening ∧ t.rxP = 30000)

/-- R112: from every state the four commands of SEND before TX_SEND cannot raise and leave the frame of the packet of the
field registers in BITS. TX_SEND then puts the record of that frame on the tone port and sets TX_BUSY and TX_DEADLINE, or
raises CmdError while busy (notes/assumptions/7.md) or DeviceError, both whatever TX_BITDUR is (notes/assumptions/8.md). -/
def Obligations.SendMacroReachesEncoder : Prop :=
  ∀ s : State, ∃ t, runCommands [.payPack, .authSign, .pktEncode, .frameBuild] s = .next t ∧ t.err = 0 ∧
    t.bitLen = 216 ∧ t.txBusy = s.txBusy ∧ t.out = s.out ∧ t.env = s.env ∧
    t.txBitdur = s.txBitdur ∧ t.txGapdur = s.txGapdur ∧
    loadBits t.mem 216 = frameOf (packetOf s.fields (sig8 (payloadOf s.fields))) ∧
    (s.txBusy = false → s.env.playOk = true → s.txBitdur ≠ 0 →
      runCommands [.payPack, .authSign, .pktEncode, .frameBuild, .txSend] s = .next { t with
        txBusy := true
        txDeadline := s.env.time + (50000 + 216 * s.txBitdur.toNat + 215 * s.txGapdur.toNat) + Config.marginUs
        out := { s.out with tones := s.out.tones ++ [scheduleOf s.env.time s.txBitdur.toNat s.txGapdur.toNat
          (frameOf (packetOf s.fields (sig8 (payloadOf s.fields))))] } }) ∧
    (s.txBusy = true →
      runCommands [.payPack, .authSign, .pktEncode, .frameBuild, .txSend] s = .next { t with err := 0x2005 }) ∧
    (s.txBusy = false → s.env.playOk = false →
      runCommands [.payPack, .authSign, .pktEncode, .frameBuild, .txSend] s = .next { t with err := 0x2004 })

/-- Every step keeps the invariant: canonical memory inside the buffers, legal lengths (R46), settled RX_STATE (R34),
bounded RXBUF without a full window (R171, R176), timers not passed (R84), capture accounted for (R164), legal ERR (R36). -/
def Obligations.EveryStepKeepsInvariant : Prop :=
  ∀ s t : State, s.Inv → step s = .next t → t.Inv

/-- The invariant holds right after reset. -/
def Obligations.ResetMeetsInvariant : Prop := State.reset.Inv
end

