-- ==== Sys2Proof/Laws/State.lean ====
section
/-! SUPPORT. One lemma per field per update of State, each true by unfolding the update, so that no proof unfolds a record
update; and the larger updates in terms of the small ones. -/

namespace Sys2Proof.Machine.State

section
variable (s : State) (v : Fields)
@[simp] theorem withFields_fields : (s.withFields v).fields = v := rfl
@[simp] theorem withFields_now : (s.withFields v).now = s.now := rfl
@[simp] theorem withFields_window : (s.withFields v).window = s.window := rfl
@[simp] theorem withFields_err : (s.withFields v).err = s.err := rfl
@[simp] theorem withFields_irqStatus : (s.withFields v).irqStatus = s.irqStatus := rfl
@[simp] theorem withFields_irqEnable : (s.withFields v).irqEnable = s.irqEnable := rfl
@[simp] theorem withFields_txBitdur : (s.withFields v).txBitdur = s.txBitdur := rfl
@[simp] theorem withFields_txGapdur : (s.withFields v).txGapdur = s.txGapdur := rfl
@[simp] theorem withFields_rxPeriod : (s.withFields v).rxPeriod = s.rxPeriod := rfl
@[simp] theorem withFields_bufLen : (s.withFields v).bufLen = s.bufLen := rfl
@[simp] theorem withFields_payLen : (s.withFields v).payLen = s.payLen := rfl
@[simp] theorem withFields_sigLen : (s.withFields v).sigLen = s.sigLen := rfl
@[simp] theorem withFields_bitLen : (s.withFields v).bitLen = s.bitLen := rfl
@[simp] theorem withFields_vok : (s.withFields v).vok = s.vok := rfl
@[simp] theorem withFields_fok : (s.withFields v).fok = s.fok := rfl
@[simp] theorem withFields_txBusy : (s.withFields v).txBusy = s.txBusy := rfl
@[simp] theorem withFields_candValid : (s.withFields v).candValid = s.candValid := rfl
@[simp] theorem withFields_rxState : (s.withFields v).rxState = s.rxState := rfl
@[simp] theorem withFields_mem : (s.withFields v).mem = s.mem := rfl
@[simp] theorem withFields_rxBuf : (s.withFields v).rxBuf = s.rxBuf := rfl
@[simp] theorem withFields_txDeadline : (s.withFields v).txDeadline = s.txDeadline := rfl
@[simp] theorem withFields_rxP : (s.withFields v).rxP = s.rxP := rfl
@[simp] theorem withFields_rxNext : (s.withFields v).rxNext = s.rxNext := rfl
@[simp] theorem withFields_env : (s.withFields v).env = s.env := rfl
@[simp] theorem withFields_out : (s.withFields v).out = s.out := rfl
@[simp] theorem withFields_pending : (s.withFields v).pending = s.pending := rfl
end

section
variable (s : State) (v : Word)
@[simp] theorem withNow_fields : (s.withNow v).fields = s.fields := rfl
@[simp] theorem withNow_now : (s.withNow v).now = v := rfl
@[simp] theorem withNow_window : (s.withNow v).window = s.window := rfl
@[simp] theorem withNow_err : (s.withNow v).err = s.err := rfl
@[simp] theorem withNow_irqStatus : (s.withNow v).irqStatus = s.irqStatus := rfl
@[simp] theorem withNow_irqEnable : (s.withNow v).irqEnable = s.irqEnable := rfl
@[simp] theorem withNow_txBitdur : (s.withNow v).txBitdur = s.txBitdur := rfl
@[simp] theorem withNow_txGapdur : (s.withNow v).txGapdur = s.txGapdur := rfl
@[simp] theorem withNow_rxPeriod : (s.withNow v).rxPeriod = s.rxPeriod := rfl
@[simp] theorem withNow_bufLen : (s.withNow v).bufLen = s.bufLen := rfl
@[simp] theorem withNow_payLen : (s.withNow v).payLen = s.payLen := rfl
@[simp] theorem withNow_sigLen : (s.withNow v).sigLen = s.sigLen := rfl
@[simp] theorem withNow_bitLen : (s.withNow v).bitLen = s.bitLen := rfl
@[simp] theorem withNow_vok : (s.withNow v).vok = s.vok := rfl
@[simp] theorem withNow_fok : (s.withNow v).fok = s.fok := rfl
@[simp] theorem withNow_txBusy : (s.withNow v).txBusy = s.txBusy := rfl
@[simp] theorem withNow_candValid : (s.withNow v).candValid = s.candValid := rfl
@[simp] theorem withNow_rxState : (s.withNow v).rxState = s.rxState := rfl
@[simp] theorem withNow_mem : (s.withNow v).mem = s.mem := rfl
@[simp] theorem withNow_rxBuf : (s.withNow v).rxBuf = s.rxBuf := rfl
@[simp] theorem withNow_txDeadline : (s.withNow v).txDeadline = s.txDeadline := rfl
@[simp] theorem withNow_rxP : (s.withNow v).rxP = s.rxP := rfl
@[simp] theorem withNow_rxNext : (s.withNow v).rxNext = s.rxNext := rfl
@[simp] theorem withNow_env : (s.withNow v).env = s.env := rfl
@[simp] theorem withNow_out : (s.withNow v).out = s.out := rfl
@[simp] theorem withNow_pending : (s.withNow v).pending = s.pending := rfl
end

section
variable (s : State) (v : Word)
@[simp] theorem withWindow_fields : (s.withWindow v).fields = s.fields := rfl
@[simp] theorem withWindow_now : (s.withWindow v).now = s.now := rfl
@[simp] theorem withWindow_window : (s.withWindow v).window = v := rfl
@[simp] theorem withWindow_err : (s.withWindow v).err = s.err := rfl
@[simp] theorem withWindow_irqStatus : (s.withWindow v).irqStatus = s.irqStatus := rfl
@[simp] theorem withWindow_irqEnable : (s.withWindow v).irqEnable = s.irqEnable := rfl
@[simp] theorem withWindow_txBitdur : (s.withWindow v).txBitdur = s.txBitdur := rfl
@[simp] theorem withWindow_txGapdur : (s.withWindow v).txGapdur = s.txGapdur := rfl
@[simp] theorem withWindow_rxPeriod : (s.withWindow v).rxPeriod = s.rxPeriod := rfl
@[simp] theorem withWindow_bufLen : (s.withWindow v).bufLen = s.bufLen := rfl
@[simp] theorem withWindow_payLen : (s.withWindow v).payLen = s.payLen := rfl
@[simp] theorem withWindow_sigLen : (s.withWindow v).sigLen = s.sigLen := rfl
@[simp] theorem withWindow_bitLen : (s.withWindow v).bitLen = s.bitLen := rfl
@[simp] theorem withWindow_vok : (s.withWindow v).vok = s.vok := rfl
@[simp] theorem withWindow_fok : (s.withWindow v).fok = s.fok := rfl
@[simp] theorem withWindow_txBusy : (s.withWindow v).txBusy = s.txBusy := rfl
@[simp] theorem withWindow_candValid : (s.withWindow v).candValid = s.candValid := rfl
@[simp] theorem withWindow_rxState : (s.withWindow v).rxState = s.rxState := rfl
@[simp] theorem withWindow_mem : (s.withWindow v).mem = s.mem := rfl
@[simp] theorem withWindow_rxBuf : (s.withWindow v).rxBuf = s.rxBuf := rfl
@[simp] theorem withWindow_txDeadline : (s.withWindow v).txDeadline = s.txDeadline := rfl
@[simp] theorem withWindow_rxP : (s.withWindow v).rxP = s.rxP := rfl
@[simp] theorem withWindow_rxNext : (s.withWindow v).rxNext = s.rxNext := rfl
@[simp] theorem withWindow_env : (s.withWindow v).env = s.env := rfl
@[simp] theorem withWindow_out : (s.withWindow v).out = s.out := rfl
@[simp] theorem withWindow_pending : (s.withWindow v).pending = s.pending := rfl
end

section
variable (s : State) (v : Word)
@[simp] theorem withErr_fields : (s.withErr v).fields = s.fields := rfl
@[simp] theorem withErr_now : (s.withErr v).now = s.now := rfl
@[simp] theorem withErr_window : (s.withErr v).window = s.window := rfl
@[simp] theorem withErr_err : (s.withErr v).err = v := rfl
@[simp] theorem withErr_irqStatus : (s.withErr v).irqStatus = s.irqStatus := rfl
@[simp] theorem withErr_irqEnable : (s.withErr v).irqEnable = s.irqEnable := rfl
@[simp] theorem withErr_txBitdur : (s.withErr v).txBitdur = s.txBitdur := rfl
@[simp] theorem withErr_txGapdur : (s.withErr v).txGapdur = s.txGapdur := rfl
@[simp] theorem withErr_rxPeriod : (s.withErr v).rxPeriod = s.rxPeriod := rfl
@[simp] theorem withErr_bufLen : (s.withErr v).bufLen = s.bufLen := rfl
@[simp] theorem withErr_payLen : (s.withErr v).payLen = s.payLen := rfl
@[simp] theorem withErr_sigLen : (s.withErr v).sigLen = s.sigLen := rfl
@[simp] theorem withErr_bitLen : (s.withErr v).bitLen = s.bitLen := rfl
@[simp] theorem withErr_vok : (s.withErr v).vok = s.vok := rfl
@[simp] theorem withErr_fok : (s.withErr v).fok = s.fok := rfl
@[simp] theorem withErr_txBusy : (s.withErr v).txBusy = s.txBusy := rfl
@[simp] theorem withErr_candValid : (s.withErr v).candValid = s.candValid := rfl
@[simp] theorem withErr_rxState : (s.withErr v).rxState = s.rxState := rfl
@[simp] theorem withErr_mem : (s.withErr v).mem = s.mem := rfl
@[simp] theorem withErr_rxBuf : (s.withErr v).rxBuf = s.rxBuf := rfl
@[simp] theorem withErr_txDeadline : (s.withErr v).txDeadline = s.txDeadline := rfl
@[simp] theorem withErr_rxP : (s.withErr v).rxP = s.rxP := rfl
@[simp] theorem withErr_rxNext : (s.withErr v).rxNext = s.rxNext := rfl
@[simp] theorem withErr_env : (s.withErr v).env = s.env := rfl
@[simp] theorem withErr_out : (s.withErr v).out = s.out := rfl
@[simp] theorem withErr_pending : (s.withErr v).pending = s.pending := rfl
end

section
variable (s : State) (v : BitVec 2)
@[simp] theorem withIrqStatus_fields : (s.withIrqStatus v).fields = s.fields := rfl
@[simp] theorem withIrqStatus_now : (s.withIrqStatus v).now = s.now := rfl
@[simp] theorem withIrqStatus_window : (s.withIrqStatus v).window = s.window := rfl
@[simp] theorem withIrqStatus_err : (s.withIrqStatus v).err = s.err := rfl
@[simp] theorem withIrqStatus_irqStatus : (s.withIrqStatus v).irqStatus = v := rfl
@[simp] theorem withIrqStatus_irqEnable : (s.withIrqStatus v).irqEnable = s.irqEnable := rfl
@[simp] theorem withIrqStatus_txBitdur : (s.withIrqStatus v).txBitdur = s.txBitdur := rfl
@[simp] theorem withIrqStatus_txGapdur : (s.withIrqStatus v).txGapdur = s.txGapdur := rfl
@[simp] theorem withIrqStatus_rxPeriod : (s.withIrqStatus v).rxPeriod = s.rxPeriod := rfl
@[simp] theorem withIrqStatus_bufLen : (s.withIrqStatus v).bufLen = s.bufLen := rfl
@[simp] theorem withIrqStatus_payLen : (s.withIrqStatus v).payLen = s.payLen := rfl
@[simp] theorem withIrqStatus_sigLen : (s.withIrqStatus v).sigLen = s.sigLen := rfl
@[simp] theorem withIrqStatus_bitLen : (s.withIrqStatus v).bitLen = s.bitLen := rfl
@[simp] theorem withIrqStatus_vok : (s.withIrqStatus v).vok = s.vok := rfl
@[simp] theorem withIrqStatus_fok : (s.withIrqStatus v).fok = s.fok := rfl
@[simp] theorem withIrqStatus_txBusy : (s.withIrqStatus v).txBusy = s.txBusy := rfl
@[simp] theorem withIrqStatus_candValid : (s.withIrqStatus v).candValid = s.candValid := rfl
@[simp] theorem withIrqStatus_rxState : (s.withIrqStatus v).rxState = s.rxState := rfl
@[simp] theorem withIrqStatus_mem : (s.withIrqStatus v).mem = s.mem := rfl
@[simp] theorem withIrqStatus_rxBuf : (s.withIrqStatus v).rxBuf = s.rxBuf := rfl
@[simp] theorem withIrqStatus_txDeadline : (s.withIrqStatus v).txDeadline = s.txDeadline := rfl
@[simp] theorem withIrqStatus_rxP : (s.withIrqStatus v).rxP = s.rxP := rfl
@[simp] theorem withIrqStatus_rxNext : (s.withIrqStatus v).rxNext = s.rxNext := rfl
@[simp] theorem withIrqStatus_env : (s.withIrqStatus v).env = s.env := rfl
@[simp] theorem withIrqStatus_out : (s.withIrqStatus v).out = s.out := rfl
@[simp] theorem withIrqStatus_pending : (s.withIrqStatus v).pending = s.pending := rfl
end

section
variable (s : State) (v : BitVec 2)
@[simp] theorem withIrqEnable_fields : (s.withIrqEnable v).fields = s.fields := rfl
@[simp] theorem withIrqEnable_now : (s.withIrqEnable v).now = s.now := rfl
@[simp] theorem withIrqEnable_window : (s.withIrqEnable v).window = s.window := rfl
@[simp] theorem withIrqEnable_err : (s.withIrqEnable v).err = s.err := rfl
@[simp] theorem withIrqEnable_irqStatus : (s.withIrqEnable v).irqStatus = s.irqStatus := rfl
@[simp] theorem withIrqEnable_irqEnable : (s.withIrqEnable v).irqEnable = v := rfl
@[simp] theorem withIrqEnable_txBitdur : (s.withIrqEnable v).txBitdur = s.txBitdur := rfl
@[simp] theorem withIrqEnable_txGapdur : (s.withIrqEnable v).txGapdur = s.txGapdur := rfl
@[simp] theorem withIrqEnable_rxPeriod : (s.withIrqEnable v).rxPeriod = s.rxPeriod := rfl
@[simp] theorem withIrqEnable_bufLen : (s.withIrqEnable v).bufLen = s.bufLen := rfl
@[simp] theorem withIrqEnable_payLen : (s.withIrqEnable v).payLen = s.payLen := rfl
@[simp] theorem withIrqEnable_sigLen : (s.withIrqEnable v).sigLen = s.sigLen := rfl
@[simp] theorem withIrqEnable_bitLen : (s.withIrqEnable v).bitLen = s.bitLen := rfl
@[simp] theorem withIrqEnable_vok : (s.withIrqEnable v).vok = s.vok := rfl
@[simp] theorem withIrqEnable_fok : (s.withIrqEnable v).fok = s.fok := rfl
@[simp] theorem withIrqEnable_txBusy : (s.withIrqEnable v).txBusy = s.txBusy := rfl
@[simp] theorem withIrqEnable_candValid : (s.withIrqEnable v).candValid = s.candValid := rfl
@[simp] theorem withIrqEnable_rxState : (s.withIrqEnable v).rxState = s.rxState := rfl
@[simp] theorem withIrqEnable_mem : (s.withIrqEnable v).mem = s.mem := rfl
@[simp] theorem withIrqEnable_rxBuf : (s.withIrqEnable v).rxBuf = s.rxBuf := rfl
@[simp] theorem withIrqEnable_txDeadline : (s.withIrqEnable v).txDeadline = s.txDeadline := rfl
@[simp] theorem withIrqEnable_rxP : (s.withIrqEnable v).rxP = s.rxP := rfl
@[simp] theorem withIrqEnable_rxNext : (s.withIrqEnable v).rxNext = s.rxNext := rfl
@[simp] theorem withIrqEnable_env : (s.withIrqEnable v).env = s.env := rfl
@[simp] theorem withIrqEnable_out : (s.withIrqEnable v).out = s.out := rfl
@[simp] theorem withIrqEnable_pending : (s.withIrqEnable v).pending = s.pending := rfl
end

section
variable (s : State) (v : Word)
@[simp] theorem withTxBitdur_fields : (s.withTxBitdur v).fields = s.fields := rfl
@[simp] theorem withTxBitdur_now : (s.withTxBitdur v).now = s.now := rfl
@[simp] theorem withTxBitdur_window : (s.withTxBitdur v).window = s.window := rfl
@[simp] theorem withTxBitdur_err : (s.withTxBitdur v).err = s.err := rfl
@[simp] theorem withTxBitdur_irqStatus : (s.withTxBitdur v).irqStatus = s.irqStatus := rfl
@[simp] theorem withTxBitdur_irqEnable : (s.withTxBitdur v).irqEnable = s.irqEnable := rfl
@[simp] theorem withTxBitdur_txBitdur : (s.withTxBitdur v).txBitdur = v := rfl
@[simp] theorem withTxBitdur_txGapdur : (s.withTxBitdur v).txGapdur = s.txGapdur := rfl
@[simp] theorem withTxBitdur_rxPeriod : (s.withTxBitdur v).rxPeriod = s.rxPeriod := rfl
@[simp] theorem withTxBitdur_bufLen : (s.withTxBitdur v).bufLen = s.bufLen := rfl
@[simp] theorem withTxBitdur_payLen : (s.withTxBitdur v).payLen = s.payLen := rfl
@[simp] theorem withTxBitdur_sigLen : (s.withTxBitdur v).sigLen = s.sigLen := rfl
@[simp] theorem withTxBitdur_bitLen : (s.withTxBitdur v).bitLen = s.bitLen := rfl
@[simp] theorem withTxBitdur_vok : (s.withTxBitdur v).vok = s.vok := rfl
@[simp] theorem withTxBitdur_fok : (s.withTxBitdur v).fok = s.fok := rfl
@[simp] theorem withTxBitdur_txBusy : (s.withTxBitdur v).txBusy = s.txBusy := rfl
@[simp] theorem withTxBitdur_candValid : (s.withTxBitdur v).candValid = s.candValid := rfl
@[simp] theorem withTxBitdur_rxState : (s.withTxBitdur v).rxState = s.rxState := rfl
@[simp] theorem withTxBitdur_mem : (s.withTxBitdur v).mem = s.mem := rfl
@[simp] theorem withTxBitdur_rxBuf : (s.withTxBitdur v).rxBuf = s.rxBuf := rfl
@[simp] theorem withTxBitdur_txDeadline : (s.withTxBitdur v).txDeadline = s.txDeadline := rfl
@[simp] theorem withTxBitdur_rxP : (s.withTxBitdur v).rxP = s.rxP := rfl
@[simp] theorem withTxBitdur_rxNext : (s.withTxBitdur v).rxNext = s.rxNext := rfl
@[simp] theorem withTxBitdur_env : (s.withTxBitdur v).env = s.env := rfl
@[simp] theorem withTxBitdur_out : (s.withTxBitdur v).out = s.out := rfl
@[simp] theorem withTxBitdur_pending : (s.withTxBitdur v).pending = s.pending := rfl
end

section
variable (s : State) (v : Word)
@[simp] theorem withTxGapdur_fields : (s.withTxGapdur v).fields = s.fields := rfl
@[simp] theorem withTxGapdur_now : (s.withTxGapdur v).now = s.now := rfl
@[simp] theorem withTxGapdur_window : (s.withTxGapdur v).window = s.window := rfl
@[simp] theorem withTxGapdur_err : (s.withTxGapdur v).err = s.err := rfl
@[simp] theorem withTxGapdur_irqStatus : (s.withTxGapdur v).irqStatus = s.irqStatus := rfl
@[simp] theorem withTxGapdur_irqEnable : (s.withTxGapdur v).irqEnable = s.irqEnable := rfl
@[simp] theorem withTxGapdur_txBitdur : (s.withTxGapdur v).txBitdur = s.txBitdur := rfl
@[simp] theorem withTxGapdur_txGapdur : (s.withTxGapdur v).txGapdur = v := rfl
@[simp] theorem withTxGapdur_rxPeriod : (s.withTxGapdur v).rxPeriod = s.rxPeriod := rfl
@[simp] theorem withTxGapdur_bufLen : (s.withTxGapdur v).bufLen = s.bufLen := rfl
@[simp] theorem withTxGapdur_payLen : (s.withTxGapdur v).payLen = s.payLen := rfl
@[simp] theorem withTxGapdur_sigLen : (s.withTxGapdur v).sigLen = s.sigLen := rfl
@[simp] theorem withTxGapdur_bitLen : (s.withTxGapdur v).bitLen = s.bitLen := rfl
@[simp] theorem withTxGapdur_vok : (s.withTxGapdur v).vok = s.vok := rfl
@[simp] theorem withTxGapdur_fok : (s.withTxGapdur v).fok = s.fok := rfl
@[simp] theorem withTxGapdur_txBusy : (s.withTxGapdur v).txBusy = s.txBusy := rfl
@[simp] theorem withTxGapdur_candValid : (s.withTxGapdur v).candValid = s.candValid := rfl
@[simp] theorem withTxGapdur_rxState : (s.withTxGapdur v).rxState = s.rxState := rfl
@[simp] theorem withTxGapdur_mem : (s.withTxGapdur v).mem = s.mem := rfl
@[simp] theorem withTxGapdur_rxBuf : (s.withTxGapdur v).rxBuf = s.rxBuf := rfl
@[simp] theorem withTxGapdur_txDeadline : (s.withTxGapdur v).txDeadline = s.txDeadline := rfl
@[simp] theorem withTxGapdur_rxP : (s.withTxGapdur v).rxP = s.rxP := rfl
@[simp] theorem withTxGapdur_rxNext : (s.withTxGapdur v).rxNext = s.rxNext := rfl
@[simp] theorem withTxGapdur_env : (s.withTxGapdur v).env = s.env := rfl
@[simp] theorem withTxGapdur_out : (s.withTxGapdur v).out = s.out := rfl
@[simp] theorem withTxGapdur_pending : (s.withTxGapdur v).pending = s.pending := rfl
end

section
variable (s : State) (v : Word)
@[simp] theorem withRxPeriod_fields : (s.withRxPeriod v).fields = s.fields := rfl
@[simp] theorem withRxPeriod_now : (s.withRxPeriod v).now = s.now := rfl
@[simp] theorem withRxPeriod_window : (s.withRxPeriod v).window = s.window := rfl
@[simp] theorem withRxPeriod_err : (s.withRxPeriod v).err = s.err := rfl
@[simp] theorem withRxPeriod_irqStatus : (s.withRxPeriod v).irqStatus = s.irqStatus := rfl
@[simp] theorem withRxPeriod_irqEnable : (s.withRxPeriod v).irqEnable = s.irqEnable := rfl
@[simp] theorem withRxPeriod_txBitdur : (s.withRxPeriod v).txBitdur = s.txBitdur := rfl
@[simp] theorem withRxPeriod_txGapdur : (s.withRxPeriod v).txGapdur = s.txGapdur := rfl
@[simp] theorem withRxPeriod_rxPeriod : (s.withRxPeriod v).rxPeriod = v := rfl
@[simp] theorem withRxPeriod_bufLen : (s.withRxPeriod v).bufLen = s.bufLen := rfl
@[simp] theorem withRxPeriod_payLen : (s.withRxPeriod v).payLen = s.payLen := rfl
@[simp] theorem withRxPeriod_sigLen : (s.withRxPeriod v).sigLen = s.sigLen := rfl
@[simp] theorem withRxPeriod_bitLen : (s.withRxPeriod v).bitLen = s.bitLen := rfl
@[simp] theorem withRxPeriod_vok : (s.withRxPeriod v).vok = s.vok := rfl
@[simp] theorem withRxPeriod_fok : (s.withRxPeriod v).fok = s.fok := rfl
@[simp] theorem withRxPeriod_txBusy : (s.withRxPeriod v).txBusy = s.txBusy := rfl
@[simp] theorem withRxPeriod_candValid : (s.withRxPeriod v).candValid = s.candValid := rfl
@[simp] theorem withRxPeriod_rxState : (s.withRxPeriod v).rxState = s.rxState := rfl
@[simp] theorem withRxPeriod_mem : (s.withRxPeriod v).mem = s.mem := rfl
@[simp] theorem withRxPeriod_rxBuf : (s.withRxPeriod v).rxBuf = s.rxBuf := rfl
@[simp] theorem withRxPeriod_txDeadline : (s.withRxPeriod v).txDeadline = s.txDeadline := rfl
@[simp] theorem withRxPeriod_rxP : (s.withRxPeriod v).rxP = s.rxP := rfl
@[simp] theorem withRxPeriod_rxNext : (s.withRxPeriod v).rxNext = s.rxNext := rfl
@[simp] theorem withRxPeriod_env : (s.withRxPeriod v).env = s.env := rfl
@[simp] theorem withRxPeriod_out : (s.withRxPeriod v).out = s.out := rfl
@[simp] theorem withRxPeriod_pending : (s.withRxPeriod v).pending = s.pending := rfl
end

section
variable (s : State) (v : Nat)
@[simp] theorem withBufLen_fields : (s.withBufLen v).fields = s.fields := rfl
@[simp] theorem withBufLen_now : (s.withBufLen v).now = s.now := rfl
@[simp] theorem withBufLen_window : (s.withBufLen v).window = s.window := rfl
@[simp] theorem withBufLen_err : (s.withBufLen v).err = s.err := rfl
@[simp] theorem withBufLen_irqStatus : (s.withBufLen v).irqStatus = s.irqStatus := rfl
@[simp] theorem withBufLen_irqEnable : (s.withBufLen v).irqEnable = s.irqEnable := rfl
@[simp] theorem withBufLen_txBitdur : (s.withBufLen v).txBitdur = s.txBitdur := rfl
@[simp] theorem withBufLen_txGapdur : (s.withBufLen v).txGapdur = s.txGapdur := rfl
@[simp] theorem withBufLen_rxPeriod : (s.withBufLen v).rxPeriod = s.rxPeriod := rfl
@[simp] theorem withBufLen_bufLen : (s.withBufLen v).bufLen = v := rfl
@[simp] theorem withBufLen_payLen : (s.withBufLen v).payLen = s.payLen := rfl
@[simp] theorem withBufLen_sigLen : (s.withBufLen v).sigLen = s.sigLen := rfl
@[simp] theorem withBufLen_bitLen : (s.withBufLen v).bitLen = s.bitLen := rfl
@[simp] theorem withBufLen_vok : (s.withBufLen v).vok = s.vok := rfl
@[simp] theorem withBufLen_fok : (s.withBufLen v).fok = s.fok := rfl
@[simp] theorem withBufLen_txBusy : (s.withBufLen v).txBusy = s.txBusy := rfl
@[simp] theorem withBufLen_candValid : (s.withBufLen v).candValid = s.candValid := rfl
@[simp] theorem withBufLen_rxState : (s.withBufLen v).rxState = s.rxState := rfl
@[simp] theorem withBufLen_mem : (s.withBufLen v).mem = s.mem := rfl
@[simp] theorem withBufLen_rxBuf : (s.withBufLen v).rxBuf = s.rxBuf := rfl
@[simp] theorem withBufLen_txDeadline : (s.withBufLen v).txDeadline = s.txDeadline := rfl
@[simp] theorem withBufLen_rxP : (s.withBufLen v).rxP = s.rxP := rfl
@[simp] theorem withBufLen_rxNext : (s.withBufLen v).rxNext = s.rxNext := rfl
@[simp] theorem withBufLen_env : (s.withBufLen v).env = s.env := rfl
@[simp] theorem withBufLen_out : (s.withBufLen v).out = s.out := rfl
@[simp] theorem withBufLen_pending : (s.withBufLen v).pending = s.pending := rfl
end

section
variable (s : State) (v : Nat)
@[simp] theorem withPayLen_fields : (s.withPayLen v).fields = s.fields := rfl
@[simp] theorem withPayLen_now : (s.withPayLen v).now = s.now := rfl
@[simp] theorem withPayLen_window : (s.withPayLen v).window = s.window := rfl
@[simp] theorem withPayLen_err : (s.withPayLen v).err = s.err := rfl
@[simp] theorem withPayLen_irqStatus : (s.withPayLen v).irqStatus = s.irqStatus := rfl
@[simp] theorem withPayLen_irqEnable : (s.withPayLen v).irqEnable = s.irqEnable := rfl
@[simp] theorem withPayLen_txBitdur : (s.withPayLen v).txBitdur = s.txBitdur := rfl
@[simp] theorem withPayLen_txGapdur : (s.withPayLen v).txGapdur = s.txGapdur := rfl
@[simp] theorem withPayLen_rxPeriod : (s.withPayLen v).rxPeriod = s.rxPeriod := rfl
@[simp] theorem withPayLen_bufLen : (s.withPayLen v).bufLen = s.bufLen := rfl
@[simp] theorem withPayLen_payLen : (s.withPayLen v).payLen = v := rfl
@[simp] theorem withPayLen_sigLen : (s.withPayLen v).sigLen = s.sigLen := rfl
@[simp] theorem withPayLen_bitLen : (s.withPayLen v).bitLen = s.bitLen := rfl
@[simp] theorem withPayLen_vok : (s.withPayLen v).vok = s.vok := rfl
@[simp] theorem withPayLen_fok : (s.withPayLen v).fok = s.fok := rfl
@[simp] theorem withPayLen_txBusy : (s.withPayLen v).txBusy = s.txBusy := rfl
@[simp] theorem withPayLen_candValid : (s.withPayLen v).candValid = s.candValid := rfl
@[simp] theorem withPayLen_rxState : (s.withPayLen v).rxState = s.rxState := rfl
@[simp] theorem withPayLen_mem : (s.withPayLen v).mem = s.mem := rfl
@[simp] theorem withPayLen_rxBuf : (s.withPayLen v).rxBuf = s.rxBuf := rfl
@[simp] theorem withPayLen_txDeadline : (s.withPayLen v).txDeadline = s.txDeadline := rfl
@[simp] theorem withPayLen_rxP : (s.withPayLen v).rxP = s.rxP := rfl
@[simp] theorem withPayLen_rxNext : (s.withPayLen v).rxNext = s.rxNext := rfl
@[simp] theorem withPayLen_env : (s.withPayLen v).env = s.env := rfl
@[simp] theorem withPayLen_out : (s.withPayLen v).out = s.out := rfl
@[simp] theorem withPayLen_pending : (s.withPayLen v).pending = s.pending := rfl
end

section
variable (s : State) (v : Nat)
@[simp] theorem withSigLen_fields : (s.withSigLen v).fields = s.fields := rfl
@[simp] theorem withSigLen_now : (s.withSigLen v).now = s.now := rfl
@[simp] theorem withSigLen_window : (s.withSigLen v).window = s.window := rfl
@[simp] theorem withSigLen_err : (s.withSigLen v).err = s.err := rfl
@[simp] theorem withSigLen_irqStatus : (s.withSigLen v).irqStatus = s.irqStatus := rfl
@[simp] theorem withSigLen_irqEnable : (s.withSigLen v).irqEnable = s.irqEnable := rfl
@[simp] theorem withSigLen_txBitdur : (s.withSigLen v).txBitdur = s.txBitdur := rfl
@[simp] theorem withSigLen_txGapdur : (s.withSigLen v).txGapdur = s.txGapdur := rfl
@[simp] theorem withSigLen_rxPeriod : (s.withSigLen v).rxPeriod = s.rxPeriod := rfl
@[simp] theorem withSigLen_bufLen : (s.withSigLen v).bufLen = s.bufLen := rfl
@[simp] theorem withSigLen_payLen : (s.withSigLen v).payLen = s.payLen := rfl
@[simp] theorem withSigLen_sigLen : (s.withSigLen v).sigLen = v := rfl
@[simp] theorem withSigLen_bitLen : (s.withSigLen v).bitLen = s.bitLen := rfl
@[simp] theorem withSigLen_vok : (s.withSigLen v).vok = s.vok := rfl
@[simp] theorem withSigLen_fok : (s.withSigLen v).fok = s.fok := rfl
@[simp] theorem withSigLen_txBusy : (s.withSigLen v).txBusy = s.txBusy := rfl
@[simp] theorem withSigLen_candValid : (s.withSigLen v).candValid = s.candValid := rfl
@[simp] theorem withSigLen_rxState : (s.withSigLen v).rxState = s.rxState := rfl
@[simp] theorem withSigLen_mem : (s.withSigLen v).mem = s.mem := rfl
@[simp] theorem withSigLen_rxBuf : (s.withSigLen v).rxBuf = s.rxBuf := rfl
@[simp] theorem withSigLen_txDeadline : (s.withSigLen v).txDeadline = s.txDeadline := rfl
@[simp] theorem withSigLen_rxP : (s.withSigLen v).rxP = s.rxP := rfl
@[simp] theorem withSigLen_rxNext : (s.withSigLen v).rxNext = s.rxNext := rfl
@[simp] theorem withSigLen_env : (s.withSigLen v).env = s.env := rfl
@[simp] theorem withSigLen_out : (s.withSigLen v).out = s.out := rfl
@[simp] theorem withSigLen_pending : (s.withSigLen v).pending = s.pending := rfl
end

section
variable (s : State) (v : Nat)
@[simp] theorem withBitLen_fields : (s.withBitLen v).fields = s.fields := rfl
@[simp] theorem withBitLen_now : (s.withBitLen v).now = s.now := rfl
@[simp] theorem withBitLen_window : (s.withBitLen v).window = s.window := rfl
@[simp] theorem withBitLen_err : (s.withBitLen v).err = s.err := rfl
@[simp] theorem withBitLen_irqStatus : (s.withBitLen v).irqStatus = s.irqStatus := rfl
@[simp] theorem withBitLen_irqEnable : (s.withBitLen v).irqEnable = s.irqEnable := rfl
@[simp] theorem withBitLen_txBitdur : (s.withBitLen v).txBitdur = s.txBitdur := rfl
@[simp] theorem withBitLen_txGapdur : (s.withBitLen v).txGapdur = s.txGapdur := rfl
@[simp] theorem withBitLen_rxPeriod : (s.withBitLen v).rxPeriod = s.rxPeriod := rfl
@[simp] theorem withBitLen_bufLen : (s.withBitLen v).bufLen = s.bufLen := rfl
@[simp] theorem withBitLen_payLen : (s.withBitLen v).payLen = s.payLen := rfl
@[simp] theorem withBitLen_sigLen : (s.withBitLen v).sigLen = s.sigLen := rfl
@[simp] theorem withBitLen_bitLen : (s.withBitLen v).bitLen = v := rfl
@[simp] theorem withBitLen_vok : (s.withBitLen v).vok = s.vok := rfl
@[simp] theorem withBitLen_fok : (s.withBitLen v).fok = s.fok := rfl
@[simp] theorem withBitLen_txBusy : (s.withBitLen v).txBusy = s.txBusy := rfl
@[simp] theorem withBitLen_candValid : (s.withBitLen v).candValid = s.candValid := rfl
@[simp] theorem withBitLen_rxState : (s.withBitLen v).rxState = s.rxState := rfl
@[simp] theorem withBitLen_mem : (s.withBitLen v).mem = s.mem := rfl
@[simp] theorem withBitLen_rxBuf : (s.withBitLen v).rxBuf = s.rxBuf := rfl
@[simp] theorem withBitLen_txDeadline : (s.withBitLen v).txDeadline = s.txDeadline := rfl
@[simp] theorem withBitLen_rxP : (s.withBitLen v).rxP = s.rxP := rfl
@[simp] theorem withBitLen_rxNext : (s.withBitLen v).rxNext = s.rxNext := rfl
@[simp] theorem withBitLen_env : (s.withBitLen v).env = s.env := rfl
@[simp] theorem withBitLen_out : (s.withBitLen v).out = s.out := rfl
@[simp] theorem withBitLen_pending : (s.withBitLen v).pending = s.pending := rfl
end

section
variable (s : State) (v : Bool)
@[simp] theorem withVok_fields : (s.withVok v).fields = s.fields := rfl
@[simp] theorem withVok_now : (s.withVok v).now = s.now := rfl
@[simp] theorem withVok_window : (s.withVok v).window = s.window := rfl
@[simp] theorem withVok_err : (s.withVok v).err = s.err := rfl
@[simp] theorem withVok_irqStatus : (s.withVok v).irqStatus = s.irqStatus := rfl
@[simp] theorem withVok_irqEnable : (s.withVok v).irqEnable = s.irqEnable := rfl
@[simp] theorem withVok_txBitdur : (s.withVok v).txBitdur = s.txBitdur := rfl
@[simp] theorem withVok_txGapdur : (s.withVok v).txGapdur = s.txGapdur := rfl
@[simp] theorem withVok_rxPeriod : (s.withVok v).rxPeriod = s.rxPeriod := rfl
@[simp] theorem withVok_bufLen : (s.withVok v).bufLen = s.bufLen := rfl
@[simp] theorem withVok_payLen : (s.withVok v).payLen = s.payLen := rfl
@[simp] theorem withVok_sigLen : (s.withVok v).sigLen = s.sigLen := rfl
@[simp] theorem withVok_bitLen : (s.withVok v).bitLen = s.bitLen := rfl
@[simp] theorem withVok_vok : (s.withVok v).vok = v := rfl
@[simp] theorem withVok_fok : (s.withVok v).fok = s.fok := rfl
@[simp] theorem withVok_txBusy : (s.withVok v).txBusy = s.txBusy := rfl
@[simp] theorem withVok_candValid : (s.withVok v).candValid = s.candValid := rfl
@[simp] theorem withVok_rxState : (s.withVok v).rxState = s.rxState := rfl
@[simp] theorem withVok_mem : (s.withVok v).mem = s.mem := rfl
@[simp] theorem withVok_rxBuf : (s.withVok v).rxBuf = s.rxBuf := rfl
@[simp] theorem withVok_txDeadline : (s.withVok v).txDeadline = s.txDeadline := rfl
@[simp] theorem withVok_rxP : (s.withVok v).rxP = s.rxP := rfl
@[simp] theorem withVok_rxNext : (s.withVok v).rxNext = s.rxNext := rfl
@[simp] theorem withVok_env : (s.withVok v).env = s.env := rfl
@[simp] theorem withVok_out : (s.withVok v).out = s.out := rfl
@[simp] theorem withVok_pending : (s.withVok v).pending = s.pending := rfl
end

section
variable (s : State) (v : Bool)
@[simp] theorem withFok_fields : (s.withFok v).fields = s.fields := rfl
@[simp] theorem withFok_now : (s.withFok v).now = s.now := rfl
@[simp] theorem withFok_window : (s.withFok v).window = s.window := rfl
@[simp] theorem withFok_err : (s.withFok v).err = s.err := rfl
@[simp] theorem withFok_irqStatus : (s.withFok v).irqStatus = s.irqStatus := rfl
@[simp] theorem withFok_irqEnable : (s.withFok v).irqEnable = s.irqEnable := rfl
@[simp] theorem withFok_txBitdur : (s.withFok v).txBitdur = s.txBitdur := rfl
@[simp] theorem withFok_txGapdur : (s.withFok v).txGapdur = s.txGapdur := rfl
@[simp] theorem withFok_rxPeriod : (s.withFok v).rxPeriod = s.rxPeriod := rfl
@[simp] theorem withFok_bufLen : (s.withFok v).bufLen = s.bufLen := rfl
@[simp] theorem withFok_payLen : (s.withFok v).payLen = s.payLen := rfl
@[simp] theorem withFok_sigLen : (s.withFok v).sigLen = s.sigLen := rfl
@[simp] theorem withFok_bitLen : (s.withFok v).bitLen = s.bitLen := rfl
@[simp] theorem withFok_vok : (s.withFok v).vok = s.vok := rfl
@[simp] theorem withFok_fok : (s.withFok v).fok = v := rfl
@[simp] theorem withFok_txBusy : (s.withFok v).txBusy = s.txBusy := rfl
@[simp] theorem withFok_candValid : (s.withFok v).candValid = s.candValid := rfl
@[simp] theorem withFok_rxState : (s.withFok v).rxState = s.rxState := rfl
@[simp] theorem withFok_mem : (s.withFok v).mem = s.mem := rfl
@[simp] theorem withFok_rxBuf : (s.withFok v).rxBuf = s.rxBuf := rfl
@[simp] theorem withFok_txDeadline : (s.withFok v).txDeadline = s.txDeadline := rfl
@[simp] theorem withFok_rxP : (s.withFok v).rxP = s.rxP := rfl
@[simp] theorem withFok_rxNext : (s.withFok v).rxNext = s.rxNext := rfl
@[simp] theorem withFok_env : (s.withFok v).env = s.env := rfl
@[simp] theorem withFok_out : (s.withFok v).out = s.out := rfl
@[simp] theorem withFok_pending : (s.withFok v).pending = s.pending := rfl
end

section
variable (s : State) (v : Bool)
@[simp] theorem withTxBusy_fields : (s.withTxBusy v).fields = s.fields := rfl
@[simp] theorem withTxBusy_now : (s.withTxBusy v).now = s.now := rfl
@[simp] theorem withTxBusy_window : (s.withTxBusy v).window = s.window := rfl
@[simp] theorem withTxBusy_err : (s.withTxBusy v).err = s.err := rfl
@[simp] theorem withTxBusy_irqStatus : (s.withTxBusy v).irqStatus = s.irqStatus := rfl
@[simp] theorem withTxBusy_irqEnable : (s.withTxBusy v).irqEnable = s.irqEnable := rfl
@[simp] theorem withTxBusy_txBitdur : (s.withTxBusy v).txBitdur = s.txBitdur := rfl
@[simp] theorem withTxBusy_txGapdur : (s.withTxBusy v).txGapdur = s.txGapdur := rfl
@[simp] theorem withTxBusy_rxPeriod : (s.withTxBusy v).rxPeriod = s.rxPeriod := rfl
@[simp] theorem withTxBusy_bufLen : (s.withTxBusy v).bufLen = s.bufLen := rfl
@[simp] theorem withTxBusy_payLen : (s.withTxBusy v).payLen = s.payLen := rfl
@[simp] theorem withTxBusy_sigLen : (s.withTxBusy v).sigLen = s.sigLen := rfl
@[simp] theorem withTxBusy_bitLen : (s.withTxBusy v).bitLen = s.bitLen := rfl
@[simp] theorem withTxBusy_vok : (s.withTxBusy v).vok = s.vok := rfl
@[simp] theorem withTxBusy_fok : (s.withTxBusy v).fok = s.fok := rfl
@[simp] theorem withTxBusy_txBusy : (s.withTxBusy v).txBusy = v := rfl
@[simp] theorem withTxBusy_candValid : (s.withTxBusy v).candValid = s.candValid := rfl
@[simp] theorem withTxBusy_rxState : (s.withTxBusy v).rxState = s.rxState := rfl
@[simp] theorem withTxBusy_mem : (s.withTxBusy v).mem = s.mem := rfl
@[simp] theorem withTxBusy_rxBuf : (s.withTxBusy v).rxBuf = s.rxBuf := rfl
@[simp] theorem withTxBusy_txDeadline : (s.withTxBusy v).txDeadline = s.txDeadline := rfl
@[simp] theorem withTxBusy_rxP : (s.withTxBusy v).rxP = s.rxP := rfl
@[simp] theorem withTxBusy_rxNext : (s.withTxBusy v).rxNext = s.rxNext := rfl
@[simp] theorem withTxBusy_env : (s.withTxBusy v).env = s.env := rfl
@[simp] theorem withTxBusy_out : (s.withTxBusy v).out = s.out := rfl
@[simp] theorem withTxBusy_pending : (s.withTxBusy v).pending = s.pending := rfl
end

section
variable (s : State) (v : Bool)
@[simp] theorem withCandValid_fields : (s.withCandValid v).fields = s.fields := rfl
@[simp] theorem withCandValid_now : (s.withCandValid v).now = s.now := rfl
@[simp] theorem withCandValid_window : (s.withCandValid v).window = s.window := rfl
@[simp] theorem withCandValid_err : (s.withCandValid v).err = s.err := rfl
@[simp] theorem withCandValid_irqStatus : (s.withCandValid v).irqStatus = s.irqStatus := rfl
@[simp] theorem withCandValid_irqEnable : (s.withCandValid v).irqEnable = s.irqEnable := rfl
@[simp] theorem withCandValid_txBitdur : (s.withCandValid v).txBitdur = s.txBitdur := rfl
@[simp] theorem withCandValid_txGapdur : (s.withCandValid v).txGapdur = s.txGapdur := rfl
@[simp] theorem withCandValid_rxPeriod : (s.withCandValid v).rxPeriod = s.rxPeriod := rfl
@[simp] theorem withCandValid_bufLen : (s.withCandValid v).bufLen = s.bufLen := rfl
@[simp] theorem withCandValid_payLen : (s.withCandValid v).payLen = s.payLen := rfl
@[simp] theorem withCandValid_sigLen : (s.withCandValid v).sigLen = s.sigLen := rfl
@[simp] theorem withCandValid_bitLen : (s.withCandValid v).bitLen = s.bitLen := rfl
@[simp] theorem withCandValid_vok : (s.withCandValid v).vok = s.vok := rfl
@[simp] theorem withCandValid_fok : (s.withCandValid v).fok = s.fok := rfl
@[simp] theorem withCandValid_txBusy : (s.withCandValid v).txBusy = s.txBusy := rfl
@[simp] theorem withCandValid_candValid : (s.withCandValid v).candValid = v := rfl
@[simp] theorem withCandValid_rxState : (s.withCandValid v).rxState = s.rxState := rfl
@[simp] theorem withCandValid_mem : (s.withCandValid v).mem = s.mem := rfl
@[simp] theorem withCandValid_rxBuf : (s.withCandValid v).rxBuf = s.rxBuf := rfl
@[simp] theorem withCandValid_txDeadline : (s.withCandValid v).txDeadline = s.txDeadline := rfl
@[simp] theorem withCandValid_rxP : (s.withCandValid v).rxP = s.rxP := rfl
@[simp] theorem withCandValid_rxNext : (s.withCandValid v).rxNext = s.rxNext := rfl
@[simp] theorem withCandValid_env : (s.withCandValid v).env = s.env := rfl
@[simp] theorem withCandValid_out : (s.withCandValid v).out = s.out := rfl
@[simp] theorem withCandValid_pending : (s.withCandValid v).pending = s.pending := rfl
end

section
variable (s : State) (v : RxState)
@[simp] theorem withRxState_fields : (s.withRxState v).fields = s.fields := rfl
@[simp] theorem withRxState_now : (s.withRxState v).now = s.now := rfl
@[simp] theorem withRxState_window : (s.withRxState v).window = s.window := rfl
@[simp] theorem withRxState_err : (s.withRxState v).err = s.err := rfl
@[simp] theorem withRxState_irqStatus : (s.withRxState v).irqStatus = s.irqStatus := rfl
@[simp] theorem withRxState_irqEnable : (s.withRxState v).irqEnable = s.irqEnable := rfl
@[simp] theorem withRxState_txBitdur : (s.withRxState v).txBitdur = s.txBitdur := rfl
@[simp] theorem withRxState_txGapdur : (s.withRxState v).txGapdur = s.txGapdur := rfl
@[simp] theorem withRxState_rxPeriod : (s.withRxState v).rxPeriod = s.rxPeriod := rfl
@[simp] theorem withRxState_bufLen : (s.withRxState v).bufLen = s.bufLen := rfl
@[simp] theorem withRxState_payLen : (s.withRxState v).payLen = s.payLen := rfl
@[simp] theorem withRxState_sigLen : (s.withRxState v).sigLen = s.sigLen := rfl
@[simp] theorem withRxState_bitLen : (s.withRxState v).bitLen = s.bitLen := rfl
@[simp] theorem withRxState_vok : (s.withRxState v).vok = s.vok := rfl
@[simp] theorem withRxState_fok : (s.withRxState v).fok = s.fok := rfl
@[simp] theorem withRxState_txBusy : (s.withRxState v).txBusy = s.txBusy := rfl
@[simp] theorem withRxState_candValid : (s.withRxState v).candValid = s.candValid := rfl
@[simp] theorem withRxState_rxState : (s.withRxState v).rxState = v := rfl
@[simp] theorem withRxState_mem : (s.withRxState v).mem = s.mem := rfl
@[simp] theorem withRxState_rxBuf : (s.withRxState v).rxBuf = s.rxBuf := rfl
@[simp] theorem withRxState_txDeadline : (s.withRxState v).txDeadline = s.txDeadline := rfl
@[simp] theorem withRxState_rxP : (s.withRxState v).rxP = s.rxP := rfl
@[simp] theorem withRxState_rxNext : (s.withRxState v).rxNext = s.rxNext := rfl
@[simp] theorem withRxState_env : (s.withRxState v).env = s.env := rfl
@[simp] theorem withRxState_out : (s.withRxState v).out = s.out := rfl
@[simp] theorem withRxState_pending : (s.withRxState v).pending = s.pending := rfl
end

section
variable (s : State) (v : Memory)
@[simp] theorem withMem_fields : (s.withMem v).fields = s.fields := rfl
@[simp] theorem withMem_now : (s.withMem v).now = s.now := rfl
@[simp] theorem withMem_window : (s.withMem v).window = s.window := rfl
@[simp] theorem withMem_err : (s.withMem v).err = s.err := rfl
@[simp] theorem withMem_irqStatus : (s.withMem v).irqStatus = s.irqStatus := rfl
@[simp] theorem withMem_irqEnable : (s.withMem v).irqEnable = s.irqEnable := rfl
@[simp] theorem withMem_txBitdur : (s.withMem v).txBitdur = s.txBitdur := rfl
@[simp] theorem withMem_txGapdur : (s.withMem v).txGapdur = s.txGapdur := rfl
@[simp] theorem withMem_rxPeriod : (s.withMem v).rxPeriod = s.rxPeriod := rfl
@[simp] theorem withMem_bufLen : (s.withMem v).bufLen = s.bufLen := rfl
@[simp] theorem withMem_payLen : (s.withMem v).payLen = s.payLen := rfl
@[simp] theorem withMem_sigLen : (s.withMem v).sigLen = s.sigLen := rfl
@[simp] theorem withMem_bitLen : (s.withMem v).bitLen = s.bitLen := rfl
@[simp] theorem withMem_vok : (s.withMem v).vok = s.vok := rfl
@[simp] theorem withMem_fok : (s.withMem v).fok = s.fok := rfl
@[simp] theorem withMem_txBusy : (s.withMem v).txBusy = s.txBusy := rfl
@[simp] theorem withMem_candValid : (s.withMem v).candValid = s.candValid := rfl
@[simp] theorem withMem_rxState : (s.withMem v).rxState = s.rxState := rfl
@[simp] theorem withMem_mem : (s.withMem v).mem = v := rfl
@[simp] theorem withMem_rxBuf : (s.withMem v).rxBuf = s.rxBuf := rfl
@[simp] theorem withMem_txDeadline : (s.withMem v).txDeadline = s.txDeadline := rfl
@[simp] theorem withMem_rxP : (s.withMem v).rxP = s.rxP := rfl
@[simp] theorem withMem_rxNext : (s.withMem v).rxNext = s.rxNext := rfl
@[simp] theorem withMem_env : (s.withMem v).env = s.env := rfl
@[simp] theorem withMem_out : (s.withMem v).out = s.out := rfl
@[simp] theorem withMem_pending : (s.withMem v).pending = s.pending := rfl
end

section
variable (s : State) (v : List Bool)
@[simp] theorem withRxBuf_fields : (s.withRxBuf v).fields = s.fields := rfl
@[simp] theorem withRxBuf_now : (s.withRxBuf v).now = s.now := rfl
@[simp] theorem withRxBuf_window : (s.withRxBuf v).window = s.window := rfl
@[simp] theorem withRxBuf_err : (s.withRxBuf v).err = s.err := rfl
@[simp] theorem withRxBuf_irqStatus : (s.withRxBuf v).irqStatus = s.irqStatus := rfl
@[simp] theorem withRxBuf_irqEnable : (s.withRxBuf v).irqEnable = s.irqEnable := rfl
@[simp] theorem withRxBuf_txBitdur : (s.withRxBuf v).txBitdur = s.txBitdur := rfl
@[simp] theorem withRxBuf_txGapdur : (s.withRxBuf v).txGapdur = s.txGapdur := rfl
@[simp] theorem withRxBuf_rxPeriod : (s.withRxBuf v).rxPeriod = s.rxPeriod := rfl
@[simp] theorem withRxBuf_bufLen : (s.withRxBuf v).bufLen = s.bufLen := rfl
@[simp] theorem withRxBuf_payLen : (s.withRxBuf v).payLen = s.payLen := rfl
@[simp] theorem withRxBuf_sigLen : (s.withRxBuf v).sigLen = s.sigLen := rfl
@[simp] theorem withRxBuf_bitLen : (s.withRxBuf v).bitLen = s.bitLen := rfl
@[simp] theorem withRxBuf_vok : (s.withRxBuf v).vok = s.vok := rfl
@[simp] theorem withRxBuf_fok : (s.withRxBuf v).fok = s.fok := rfl
@[simp] theorem withRxBuf_txBusy : (s.withRxBuf v).txBusy = s.txBusy := rfl
@[simp] theorem withRxBuf_candValid : (s.withRxBuf v).candValid = s.candValid := rfl
@[simp] theorem withRxBuf_rxState : (s.withRxBuf v).rxState = s.rxState := rfl
@[simp] theorem withRxBuf_mem : (s.withRxBuf v).mem = s.mem := rfl
@[simp] theorem withRxBuf_rxBuf : (s.withRxBuf v).rxBuf = v := rfl
@[simp] theorem withRxBuf_txDeadline : (s.withRxBuf v).txDeadline = s.txDeadline := rfl
@[simp] theorem withRxBuf_rxP : (s.withRxBuf v).rxP = s.rxP := rfl
@[simp] theorem withRxBuf_rxNext : (s.withRxBuf v).rxNext = s.rxNext := rfl
@[simp] theorem withRxBuf_env : (s.withRxBuf v).env = s.env := rfl
@[simp] theorem withRxBuf_out : (s.withRxBuf v).out = s.out := rfl
@[simp] theorem withRxBuf_pending : (s.withRxBuf v).pending = s.pending := rfl
end

section
variable (s : State) (v : Nat)
@[simp] theorem withTxDeadline_fields : (s.withTxDeadline v).fields = s.fields := rfl
@[simp] theorem withTxDeadline_now : (s.withTxDeadline v).now = s.now := rfl
@[simp] theorem withTxDeadline_window : (s.withTxDeadline v).window = s.window := rfl
@[simp] theorem withTxDeadline_err : (s.withTxDeadline v).err = s.err := rfl
@[simp] theorem withTxDeadline_irqStatus : (s.withTxDeadline v).irqStatus = s.irqStatus := rfl
@[simp] theorem withTxDeadline_irqEnable : (s.withTxDeadline v).irqEnable = s.irqEnable := rfl
@[simp] theorem withTxDeadline_txBitdur : (s.withTxDeadline v).txBitdur = s.txBitdur := rfl
@[simp] theorem withTxDeadline_txGapdur : (s.withTxDeadline v).txGapdur = s.txGapdur := rfl
@[simp] theorem withTxDeadline_rxPeriod : (s.withTxDeadline v).rxPeriod = s.rxPeriod := rfl
@[simp] theorem withTxDeadline_bufLen : (s.withTxDeadline v).bufLen = s.bufLen := rfl
@[simp] theorem withTxDeadline_payLen : (s.withTxDeadline v).payLen = s.payLen := rfl
@[simp] theorem withTxDeadline_sigLen : (s.withTxDeadline v).sigLen = s.sigLen := rfl
@[simp] theorem withTxDeadline_bitLen : (s.withTxDeadline v).bitLen = s.bitLen := rfl
@[simp] theorem withTxDeadline_vok : (s.withTxDeadline v).vok = s.vok := rfl
@[simp] theorem withTxDeadline_fok : (s.withTxDeadline v).fok = s.fok := rfl
@[simp] theorem withTxDeadline_txBusy : (s.withTxDeadline v).txBusy = s.txBusy := rfl
@[simp] theorem withTxDeadline_candValid : (s.withTxDeadline v).candValid = s.candValid := rfl
@[simp] theorem withTxDeadline_rxState : (s.withTxDeadline v).rxState = s.rxState := rfl
@[simp] theorem withTxDeadline_mem : (s.withTxDeadline v).mem = s.mem := rfl
@[simp] theorem withTxDeadline_rxBuf : (s.withTxDeadline v).rxBuf = s.rxBuf := rfl
@[simp] theorem withTxDeadline_txDeadline : (s.withTxDeadline v).txDeadline = v := rfl
@[simp] theorem withTxDeadline_rxP : (s.withTxDeadline v).rxP = s.rxP := rfl
@[simp] theorem withTxDeadline_rxNext : (s.withTxDeadline v).rxNext = s.rxNext := rfl
@[simp] theorem withTxDeadline_env : (s.withTxDeadline v).env = s.env := rfl
@[simp] theorem withTxDeadline_out : (s.withTxDeadline v).out = s.out := rfl
@[simp] theorem withTxDeadline_pending : (s.withTxDeadline v).pending = s.pending := rfl
end

section
variable (s : State) (v : Word)
@[simp] theorem withRxP_fields : (s.withRxP v).fields = s.fields := rfl
@[simp] theorem withRxP_now : (s.withRxP v).now = s.now := rfl
@[simp] theorem withRxP_window : (s.withRxP v).window = s.window := rfl
@[simp] theorem withRxP_err : (s.withRxP v).err = s.err := rfl
@[simp] theorem withRxP_irqStatus : (s.withRxP v).irqStatus = s.irqStatus := rfl
@[simp] theorem withRxP_irqEnable : (s.withRxP v).irqEnable = s.irqEnable := rfl
@[simp] theorem withRxP_txBitdur : (s.withRxP v).txBitdur = s.txBitdur := rfl
@[simp] theorem withRxP_txGapdur : (s.withRxP v).txGapdur = s.txGapdur := rfl
@[simp] theorem withRxP_rxPeriod : (s.withRxP v).rxPeriod = s.rxPeriod := rfl
@[simp] theorem withRxP_bufLen : (s.withRxP v).bufLen = s.bufLen := rfl
@[simp] theorem withRxP_payLen : (s.withRxP v).payLen = s.payLen := rfl
@[simp] theorem withRxP_sigLen : (s.withRxP v).sigLen = s.sigLen := rfl
@[simp] theorem withRxP_bitLen : (s.withRxP v).bitLen = s.bitLen := rfl
@[simp] theorem withRxP_vok : (s.withRxP v).vok = s.vok := rfl
@[simp] theorem withRxP_fok : (s.withRxP v).fok = s.fok := rfl
@[simp] theorem withRxP_txBusy : (s.withRxP v).txBusy = s.txBusy := rfl
@[simp] theorem withRxP_candValid : (s.withRxP v).candValid = s.candValid := rfl
@[simp] theorem withRxP_rxState : (s.withRxP v).rxState = s.rxState := rfl
@[simp] theorem withRxP_mem : (s.withRxP v).mem = s.mem := rfl
@[simp] theorem withRxP_rxBuf : (s.withRxP v).rxBuf = s.rxBuf := rfl
@[simp] theorem withRxP_txDeadline : (s.withRxP v).txDeadline = s.txDeadline := rfl
@[simp] theorem withRxP_rxP : (s.withRxP v).rxP = v := rfl
@[simp] theorem withRxP_rxNext : (s.withRxP v).rxNext = s.rxNext := rfl
@[simp] theorem withRxP_env : (s.withRxP v).env = s.env := rfl
@[simp] theorem withRxP_out : (s.withRxP v).out = s.out := rfl
@[simp] theorem withRxP_pending : (s.withRxP v).pending = s.pending := rfl
end

section
variable (s : State) (v : Nat)
@[simp] theorem withRxNext_fields : (s.withRxNext v).fields = s.fields := rfl
@[simp] theorem withRxNext_now : (s.withRxNext v).now = s.now := rfl
@[simp] theorem withRxNext_window : (s.withRxNext v).window = s.window := rfl
@[simp] theorem withRxNext_err : (s.withRxNext v).err = s.err := rfl
@[simp] theorem withRxNext_irqStatus : (s.withRxNext v).irqStatus = s.irqStatus := rfl
@[simp] theorem withRxNext_irqEnable : (s.withRxNext v).irqEnable = s.irqEnable := rfl
@[simp] theorem withRxNext_txBitdur : (s.withRxNext v).txBitdur = s.txBitdur := rfl
@[simp] theorem withRxNext_txGapdur : (s.withRxNext v).txGapdur = s.txGapdur := rfl
@[simp] theorem withRxNext_rxPeriod : (s.withRxNext v).rxPeriod = s.rxPeriod := rfl
@[simp] theorem withRxNext_bufLen : (s.withRxNext v).bufLen = s.bufLen := rfl
@[simp] theorem withRxNext_payLen : (s.withRxNext v).payLen = s.payLen := rfl
@[simp] theorem withRxNext_sigLen : (s.withRxNext v).sigLen = s.sigLen := rfl
@[simp] theorem withRxNext_bitLen : (s.withRxNext v).bitLen = s.bitLen := rfl
@[simp] theorem withRxNext_vok : (s.withRxNext v).vok = s.vok := rfl
@[simp] theorem withRxNext_fok : (s.withRxNext v).fok = s.fok := rfl
@[simp] theorem withRxNext_txBusy : (s.withRxNext v).txBusy = s.txBusy := rfl
@[simp] theorem withRxNext_candValid : (s.withRxNext v).candValid = s.candValid := rfl
@[simp] theorem withRxNext_rxState : (s.withRxNext v).rxState = s.rxState := rfl
@[simp] theorem withRxNext_mem : (s.withRxNext v).mem = s.mem := rfl
@[simp] theorem withRxNext_rxBuf : (s.withRxNext v).rxBuf = s.rxBuf := rfl
@[simp] theorem withRxNext_txDeadline : (s.withRxNext v).txDeadline = s.txDeadline := rfl
@[simp] theorem withRxNext_rxP : (s.withRxNext v).rxP = s.rxP := rfl
@[simp] theorem withRxNext_rxNext : (s.withRxNext v).rxNext = v := rfl
@[simp] theorem withRxNext_env : (s.withRxNext v).env = s.env := rfl
@[simp] theorem withRxNext_out : (s.withRxNext v).out = s.out := rfl
@[simp] theorem withRxNext_pending : (s.withRxNext v).pending = s.pending := rfl
end

section
variable (s : State) (v : Env)
@[simp] theorem withEnv_fields : (s.withEnv v).fields = s.fields := rfl
@[simp] theorem withEnv_now : (s.withEnv v).now = s.now := rfl
@[simp] theorem withEnv_window : (s.withEnv v).window = s.window := rfl
@[simp] theorem withEnv_err : (s.withEnv v).err = s.err := rfl
@[simp] theorem withEnv_irqStatus : (s.withEnv v).irqStatus = s.irqStatus := rfl
@[simp] theorem withEnv_irqEnable : (s.withEnv v).irqEnable = s.irqEnable := rfl
@[simp] theorem withEnv_txBitdur : (s.withEnv v).txBitdur = s.txBitdur := rfl
@[simp] theorem withEnv_txGapdur : (s.withEnv v).txGapdur = s.txGapdur := rfl
@[simp] theorem withEnv_rxPeriod : (s.withEnv v).rxPeriod = s.rxPeriod := rfl
@[simp] theorem withEnv_bufLen : (s.withEnv v).bufLen = s.bufLen := rfl
@[simp] theorem withEnv_payLen : (s.withEnv v).payLen = s.payLen := rfl
@[simp] theorem withEnv_sigLen : (s.withEnv v).sigLen = s.sigLen := rfl
@[simp] theorem withEnv_bitLen : (s.withEnv v).bitLen = s.bitLen := rfl
@[simp] theorem withEnv_vok : (s.withEnv v).vok = s.vok := rfl
@[simp] theorem withEnv_fok : (s.withEnv v).fok = s.fok := rfl
@[simp] theorem withEnv_txBusy : (s.withEnv v).txBusy = s.txBusy := rfl
@[simp] theorem withEnv_candValid : (s.withEnv v).candValid = s.candValid := rfl
@[simp] theorem withEnv_rxState : (s.withEnv v).rxState = s.rxState := rfl
@[simp] theorem withEnv_mem : (s.withEnv v).mem = s.mem := rfl
@[simp] theorem withEnv_rxBuf : (s.withEnv v).rxBuf = s.rxBuf := rfl
@[simp] theorem withEnv_txDeadline : (s.withEnv v).txDeadline = s.txDeadline := rfl
@[simp] theorem withEnv_rxP : (s.withEnv v).rxP = s.rxP := rfl
@[simp] theorem withEnv_rxNext : (s.withEnv v).rxNext = s.rxNext := rfl
@[simp] theorem withEnv_env : (s.withEnv v).env = v := rfl
@[simp] theorem withEnv_out : (s.withEnv v).out = s.out := rfl
@[simp] theorem withEnv_pending : (s.withEnv v).pending = s.pending := rfl
end

section
variable (s : State) (v : Outputs)
@[simp] theorem withOut_fields : (s.withOut v).fields = s.fields := rfl
@[simp] theorem withOut_now : (s.withOut v).now = s.now := rfl
@[simp] theorem withOut_window : (s.withOut v).window = s.window := rfl
@[simp] theorem withOut_err : (s.withOut v).err = s.err := rfl
@[simp] theorem withOut_irqStatus : (s.withOut v).irqStatus = s.irqStatus := rfl
@[simp] theorem withOut_irqEnable : (s.withOut v).irqEnable = s.irqEnable := rfl
@[simp] theorem withOut_txBitdur : (s.withOut v).txBitdur = s.txBitdur := rfl
@[simp] theorem withOut_txGapdur : (s.withOut v).txGapdur = s.txGapdur := rfl
@[simp] theorem withOut_rxPeriod : (s.withOut v).rxPeriod = s.rxPeriod := rfl
@[simp] theorem withOut_bufLen : (s.withOut v).bufLen = s.bufLen := rfl
@[simp] theorem withOut_payLen : (s.withOut v).payLen = s.payLen := rfl
@[simp] theorem withOut_sigLen : (s.withOut v).sigLen = s.sigLen := rfl
@[simp] theorem withOut_bitLen : (s.withOut v).bitLen = s.bitLen := rfl
@[simp] theorem withOut_vok : (s.withOut v).vok = s.vok := rfl
@[simp] theorem withOut_fok : (s.withOut v).fok = s.fok := rfl
@[simp] theorem withOut_txBusy : (s.withOut v).txBusy = s.txBusy := rfl
@[simp] theorem withOut_candValid : (s.withOut v).candValid = s.candValid := rfl
@[simp] theorem withOut_rxState : (s.withOut v).rxState = s.rxState := rfl
@[simp] theorem withOut_mem : (s.withOut v).mem = s.mem := rfl
@[simp] theorem withOut_rxBuf : (s.withOut v).rxBuf = s.rxBuf := rfl
@[simp] theorem withOut_txDeadline : (s.withOut v).txDeadline = s.txDeadline := rfl
@[simp] theorem withOut_rxP : (s.withOut v).rxP = s.rxP := rfl
@[simp] theorem withOut_rxNext : (s.withOut v).rxNext = s.rxNext := rfl
@[simp] theorem withOut_env : (s.withOut v).env = s.env := rfl
@[simp] theorem withOut_out : (s.withOut v).out = v := rfl
@[simp] theorem withOut_pending : (s.withOut v).pending = s.pending := rfl
end

section
variable (s : State) (v : List Event)
@[simp] theorem withPending_fields : (s.withPending v).fields = s.fields := rfl
@[simp] theorem withPending_now : (s.withPending v).now = s.now := rfl
@[simp] theorem withPending_window : (s.withPending v).window = s.window := rfl
@[simp] theorem withPending_err : (s.withPending v).err = s.err := rfl
@[simp] theorem withPending_irqStatus : (s.withPending v).irqStatus = s.irqStatus := rfl
@[simp] theorem withPending_irqEnable : (s.withPending v).irqEnable = s.irqEnable := rfl
@[simp] theorem withPending_txBitdur : (s.withPending v).txBitdur = s.txBitdur := rfl
@[simp] theorem withPending_txGapdur : (s.withPending v).txGapdur = s.txGapdur := rfl
@[simp] theorem withPending_rxPeriod : (s.withPending v).rxPeriod = s.rxPeriod := rfl
@[simp] theorem withPending_bufLen : (s.withPending v).bufLen = s.bufLen := rfl
@[simp] theorem withPending_payLen : (s.withPending v).payLen = s.payLen := rfl
@[simp] theorem withPending_sigLen : (s.withPending v).sigLen = s.sigLen := rfl
@[simp] theorem withPending_bitLen : (s.withPending v).bitLen = s.bitLen := rfl
@[simp] theorem withPending_vok : (s.withPending v).vok = s.vok := rfl
@[simp] theorem withPending_fok : (s.withPending v).fok = s.fok := rfl
@[simp] theorem withPending_txBusy : (s.withPending v).txBusy = s.txBusy := rfl
@[simp] theorem withPending_candValid : (s.withPending v).candValid = s.candValid := rfl
@[simp] theorem withPending_rxState : (s.withPending v).rxState = s.rxState := rfl
@[simp] theorem withPending_mem : (s.withPending v).mem = s.mem := rfl
@[simp] theorem withPending_rxBuf : (s.withPending v).rxBuf = s.rxBuf := rfl
@[simp] theorem withPending_txDeadline : (s.withPending v).txDeadline = s.txDeadline := rfl
@[simp] theorem withPending_rxP : (s.withPending v).rxP = s.rxP := rfl
@[simp] theorem withPending_rxNext : (s.withPending v).rxNext = s.rxNext := rfl
@[simp] theorem withPending_env : (s.withPending v).env = s.env := rfl
@[simp] theorem withPending_out : (s.withPending v).out = s.out := rfl
@[simp] theorem withPending_pending : (s.withPending v).pending = v := rfl
end

end Sys2Proof.Machine.State

namespace Sys2Proof.Machine

@[simp] theorem State.withPending_self (s : State) : s.withPending s.pending = s := rfl

@[simp] theorem State.withPending_withPending (s : State) (v w : List Event) :
    (s.withPending v).withPending w = s.withPending w := rfl

@[simp] theorem State.succeed_eq (s : State) : s.succeed = s.withErr 0 := rfl

@[simp] theorem State.raiseErr_eq (s : State) (op : Byte) (k : ErrKind) : s.raiseErr op k = s.withErr (errWord op k) := rfl

@[simp] theorem State.raiseIllegal_eq (s : State) (w : Word) :
    s.raiseIllegal w = s.withErr (errWord (opField w) .cmdError) := rfl

@[simp] theorem State.emitTone_eq (s : State) (t : ToneSchedule) :
    s.emitTone t = s.withOut { s.out with tones := s.out.tones ++ [t] } := rfl

@[simp] theorem State.signalCapture_eq (s : State) (c : CaptureSignal) :
    s.signalCapture c = s.withOut { s.out with captures := s.out.captures ++ [c] } := rfl

@[simp] theorem State.logRead_eq (s : State) (r : BusRead) :
    s.logRead r = s.withOut { s.out with reads := s.out.reads ++ [r] } := rfl

@[simp] theorem State.setEvent_eq (s : State) (bit : BitVec 2) : s.setEvent bit = s.withIrqStatus (s.irqStatus ||| bit) := rfl

/-- Releasing the capture resource writes the outputs only. -/
theorem State.releaseCapture_eq (s : State) :
    s.releaseCapture =
      s.withOut { s.out with captures := s.out.captures ++ if s.captureHeld then [.release] else [] } := by
  unfold State.releaseCapture
  by_cases h : s.captureHeld
  · simp [h]
  · simp only [h, Bool.false_eq_true, if_false, List.append_nil]; rfl

end Sys2Proof.Machine
end

