-- ==== Sys2Proof/Laws/Commands.lean ====
section
/-! SUPPORT. What a command can do, said once: if `exec` answers a next state, that state is the raising one or the one the
command's rule writes, and a command answers a next state wherever its duration registers are not zero. -/

namespace Sys2Proof.Machine

/-- The state a command writes when it does not raise, before ERR becomes 0. -/
def commandEffect (i : Instr) (s : State) : State :=
  match i with
  | .payPack => (s.withMem (storeBytes s.mem payBase (payloadOf s.fields))).withPayLen 14
  | .pktEncode => (s.withMem (storeBytes s.mem bufBase (packetOf s.fields (s.sigBytes 8)))).withBufLen 26
  | .pktDecode => ((s.withFields (fieldsOf (s.bufBytes 22))).withMem
      (storeBytes s.mem sigBase (signatureOf (s.bufBytes 22)))).withSigLen 8
  | .bitsFromBytes =>
    (s.withMem (storeBits s.mem 0 (bitsFromBytes (s.bufBytes s.bufLen)))).withBitLen (8 * s.bufLen)
  | .bytesFromBits =>
    (s.withMem (storeBytes s.mem bufBase (bytesFromBits (s.bits s.bitLen)))).withBufLen (s.bitLen / 8)
  | .frameBuild => (s.withMem (storeBits s.mem 0 (frameOf (s.bufBytes 26)))).withBitLen 216
  | .authSign => (s.withMem (storeBytes s.mem sigBase (sig8 (s.payBytes s.payLen)))).withSigLen 8
  | .authVerify => s.withVok (decide (s.sigLen = 8) && s.sigBytes 8 == sig8 (s.payBytes s.payLen))
  | .authFresh => s.withFok (isFresh s.fields.ts s.now s.window)
  | .validate => (s.withBufLen 0).withFields (fieldsOf (s.bufBytes 22))
  | .txSend =>
    ((s.emitTone (scheduleOf s.env.time s.txBitdur.toNat s.txGapdur.toNat (s.bits s.bitLen))).withTxDeadline
      (s.env.time + totalScheduled s.bitLen s.txBitdur.toNat s.txGapdur.toNat + Config.marginUs)).withTxBusy true
  | .rxStart =>
    ((((s.withRxBuf []).withRxP s.rxPeriod).withRxNext (s.env.time + s.rxPeriod.toNat)).withRxState
      .listening).signalCapture .request
  | .rxStop => (s.releaseCapture.withRxBuf []).withRxState .stopped
  | .candLoad => ((s.withMem (storeBytes s.mem bufBase (s.candBytes 26))).withBufLen 26).withCandValid false

/-- What a command that does not raise has found true (the `requires` and the tests of its rule). -/
def commandReady (i : Instr) (s : State) : Prop :=
  match i with
  | .payPack | .bitsFromBytes | .bytesFromBits | .authSign | .authVerify | .authFresh | .rxStop => True
  | .pktEncode => s.sigLen = 8
  | .pktDecode | .frameBuild => s.bufLen = 26
  | .validate => s.bufLen = 26 ∧ sig8 (s.bufBytes 14) = signatureOf (s.bufBytes 22) ∧
      isFresh (u32 (s.bufBytes 22) 8) s.now s.window = true
  | .txSend => s.txBusy = false ∧ s.env.playOk = true ∧ s.txBitdur ≠ 0
  | .rxStart => s.rxState ≠ .listening ∧ s.env.capOk = true ∧ s.rxPeriod ≠ 0
  | .candLoad => s.candValid = true

/-- What a command that raises the error kind `k` has found (R211). -/
def commandRaises (i : Instr) (k : ErrKind) (s : State) : Prop :=
  match i with
  | .payPack | .bitsFromBytes | .bytesFromBits | .authSign | .authVerify | .authFresh | .rxStop => False
  | .pktEncode => k = .formatError ∧ s.sigLen ≠ 8
  | .pktDecode | .frameBuild => k = .formatError ∧ s.bufLen ≠ 26
  | .validate => (k = .formatError ∧ s.bufLen ≠ 26) ∨
      (k = .authError ∧ s.bufLen = 26 ∧ sig8 (s.bufBytes 14) ≠ signatureOf (s.bufBytes 22)) ∨
      (k = .stalenessError ∧ s.bufLen = 26 ∧ sig8 (s.bufBytes 14) = signatureOf (s.bufBytes 22) ∧
        isFresh (u32 (s.bufBytes 22) 8) s.now s.window = false)
  | .txSend => (k = .cmdError ∧ s.txBusy = true) ∨ (k = .deviceError ∧ s.txBusy = false ∧ s.env.playOk = false)
  | .rxStart => (k = .cmdError ∧ s.rxState = .listening) ∨
      (k = .deviceError ∧ s.rxState ≠ .listening ∧ s.env.capOk = false)
  | .candLoad => k = .cmdError ∧ s.candValid = false

/-- The state in which a command raises: BUF_LEN is 0 after VALIDATE, all else as before. -/
def beforeRaise (i : Instr) (s : State) : State := if i = .validate then s.withBufLen 0 else s

/-- A next state of a command is its effect with ERR = 0, or the raising state with the error's word in ERR. -/
theorem exec_next_cases {i : Instr} {s t : State} (h : exec i s = .next t) :
    (commandReady i s ∧ t = (commandEffect i s).succeed) ∨
    ∃ k, commandRaises i k s ∧ t = (beforeRaise i s).raiseErr i.opcode k := by
  cases i
  case pktEncode =>
    simp only [exec, execPktEncode] at h
    split at h
    · next hc => cases h; exact .inl ⟨hc, rfl⟩
    · next hc => cases h; exact .inr ⟨_, ⟨rfl, hc⟩, rfl⟩
  case pktDecode =>
    simp only [exec, execPktDecode] at h
    split at h
    · next hc => cases h; exact .inl ⟨hc, rfl⟩
    · next hc => cases h; exact .inr ⟨_, ⟨rfl, hc⟩, rfl⟩
  case frameBuild =>
    simp only [exec, execFrameBuild] at h
    split at h
    · next hc => cases h; exact .inl ⟨hc, rfl⟩
    · next hc => cases h; exact .inr ⟨_, ⟨rfl, hc⟩, rfl⟩
  case candLoad =>
    simp only [exec, execCandLoad] at h
    split at h
    · next hc => cases h; exact .inl ⟨hc, rfl⟩
    · next hc => cases h; exact .inr ⟨_, ⟨rfl, by simpa using hc⟩, rfl⟩
  case validate =>
    simp only [exec, execValidate] at h
    split at h
    · next h1 =>
      split at h
      · next h2 =>
        split at h
        · next h3 => cases h; exact .inl ⟨⟨h1, h2, h3⟩, rfl⟩
        · next h3 => cases h; exact .inr ⟨_, .inr (.inr ⟨rfl, h1, h2, by simpa using h3⟩), rfl⟩
      · next h2 => cases h; exact .inr ⟨_, .inr (.inl ⟨rfl, h1, h2⟩), rfl⟩
    · next h1 => cases h; exact .inr ⟨_, .inl ⟨rfl, h1⟩, rfl⟩
  case txSend =>
    simp only [exec, execTxSend] at h
    split at h
    · next h1 => cases h; exact .inr ⟨_, .inl ⟨rfl, h1⟩, rfl⟩
    · next h1 =>
      split at h
      · next h2 =>
        split at h
        · cases h
        · next h3 => cases h; exact .inl ⟨⟨by simpa using h1, h2, h3⟩, rfl⟩
      · next h2 => cases h; exact .inr ⟨_, .inr ⟨rfl, by simpa using h1, by simpa using h2⟩, rfl⟩
  case rxStart =>
    simp only [exec, execRxStart] at h
    split at h
    · next h1 => cases h; exact .inr ⟨_, .inl ⟨rfl, h1⟩, rfl⟩
    · next h1 =>
      split at h
      · next h2 =>
        split at h
        · cases h
        · next h3 => cases h; exact .inl ⟨⟨h1, h2, h3⟩, rfl⟩
      · next h2 => cases h; exact .inr ⟨_, .inr ⟨rfl, h1, by simpa using h2⟩, rfl⟩
  all_goals
    cases h
    exact .inl ⟨trivial, rfl⟩

/-- A command whose tests pass answers its effect with ERR = 0. -/
theorem exec_of_ready {i : Instr} {s : State} (h : commandReady i s) : exec i s = .next (commandEffect i s).succeed := by
  cases i
  case pktEncode => simp only [exec, execPktEncode]; rw [if_pos (show s.sigLen = 8 from h)]; rfl
  case pktDecode => simp only [exec, execPktDecode]; rw [if_pos (show s.bufLen = 26 from h)]; rfl
  case frameBuild => simp only [exec, execFrameBuild]; rw [if_pos (show s.bufLen = 26 from h)]; rfl
  case candLoad => simp only [exec, execCandLoad]; rw [if_pos (show s.candValid = true from h)]; rfl
  case validate => simp only [exec, execValidate]; rw [if_pos h.1, if_pos h.2.1, if_pos h.2.2]; rfl
  case txSend =>
    simp only [exec, execTxSend]
    rw [if_neg (Bool.eq_false_iff.1 h.1), if_pos h.2.1, if_neg h.2.2]
    rfl
  case rxStart =>
    simp only [exec, execRxStart]
    rw [if_neg h.1, if_pos h.2.1, if_neg h.2.2]
    rfl
  all_goals rfl

/-- A command that finds its error raises it. -/
theorem exec_of_raises {i : Instr} {k : ErrKind} {s : State} (h : commandRaises i k s) :
    exec i s = .next ((beforeRaise i s).raiseErr i.opcode k) := by
  cases i
  case pktEncode => obtain ⟨rfl, h⟩ := h; simp only [exec, execPktEncode]; rw [if_neg h]; rfl
  case pktDecode => obtain ⟨rfl, h⟩ := h; simp only [exec, execPktDecode]; rw [if_neg h]; rfl
  case frameBuild => obtain ⟨rfl, h⟩ := h; simp only [exec, execFrameBuild]; rw [if_neg h]; rfl
  case candLoad =>
    obtain ⟨rfl, h⟩ := h
    simp only [exec, execCandLoad]
    rw [if_neg (Bool.eq_false_iff.1 h)]
    rfl
  case validate =>
    simp only [exec, execValidate]
    obtain ⟨rfl, h⟩ | ⟨rfl, h, h2⟩ | ⟨rfl, h, h2, h3⟩ := h
    · rw [if_neg h]; rfl
    · rw [if_pos h, if_neg h2]; rfl
    · rw [if_pos h, if_pos h2, if_neg (Bool.eq_false_iff.1 h3)]; rfl
  case txSend =>
    simp only [exec, execTxSend]
    obtain ⟨rfl, h⟩ | ⟨rfl, h, h2⟩ := h
    · rw [if_pos h]; rfl
    · rw [if_neg (Bool.eq_false_iff.1 h), if_neg (Bool.eq_false_iff.1 h2)]; rfl
  case rxStart =>
    simp only [exec, execRxStart]
    obtain ⟨rfl, h⟩ | ⟨rfl, h, h2⟩ := h
    · rw [if_pos h]; rfl
    · rw [if_neg h, if_neg (Bool.eq_false_iff.1 h2)]; rfl
  all_goals exact h.elim

end Sys2Proof.Machine
end

