-- ==== Sys2Proof/Laws/Decode.lean ====
section
/-! SUPPORT. The laws of the opcode map and of the fields of a command word. -/

namespace Sys2Proof

/-- What a lookup answers stands in the table. -/
theorem lookupOpcode_mem {op : Byte} {i : Instr} {rows : List (Byte × Instr)} (h : lookupOpcode op rows = some i) :
    (op, i) ∈ rows := by
  induction rows with
  | nil => simp [lookupOpcode] at h
  | cons row rows ih =>
    unfold lookupOpcode at h
    split at h
    · next hr =>
      obtain rfl := Option.some.inj h
      simp [← hr]
    · exact List.mem_cons_of_mem _ (ih h)

/-- No opcode byte stands in two rows of the opcode map (R103). -/
theorem opcodeTable_no_overlap : opcodeTable.Pairwise (fun r q => r.1 ≠ q.1) := by decide

/-- The opcode map and the opcodes agree row by row (R103). -/
theorem opcodeTable_opcode : ∀ row ∈ opcodeTable, row.1 = row.2.opcode := by decide

theorem lookupOpcode_iff (op : Byte) (i : Instr) : lookupOpcode op opcodeTable = some i ↔ op = i.opcode := by
  constructor
  · exact fun h => opcodeTable_opcode _ (lookupOpcode_mem h)
  · rintro rfl
    cases i <;> rfl

/-- A word is its two fields (R100). -/
theorem word_fields (w : Word) : w = zeroField w ++ opField w := by
  apply BitVec.eq_of_getLsbD_eq
  intro k hk
  rw [BitVec.getLsbD_append]
  simp only [zeroField, opField, BitVec.getLsbD_extractLsb']
  by_cases h8 : k < 8
  · simp [h8]
  · have e : 8 + (k - 8) = k := by omega
    have e2 : k - 8 < 24 := by omega
    simp [h8, e, e2]

@[simp] theorem opField_encode (i : Instr) : opField (encode i) = i.opcode := by cases i <;> rfl

@[simp] theorem zeroField_encode (i : Instr) : zeroField (encode i) = 0 := by cases i <;> rfl

/-- The word an illegal word's ERR holds, in numbers (R104). -/
theorem errWord_cmdError (w : Word) :
    Machine.errWord (opField w) .cmdError = ((w &&& 0xFF) <<< 8) ||| 5 := by
  have h : (opField w).setWidth 32 = w &&& 0xFF := by
    apply BitVec.eq_of_getLsbD_eq
    intro k hk
    have e : (0xFF : Word) = BitVec.ofNat 32 (2 ^ 8 - 1) := rfl
    simp only [opField, BitVec.getLsbD_setWidth, BitVec.getLsbD_extractLsb', BitVec.getLsbD_and, e,
      BitVec.getLsbD_ofNat, Nat.testBit_two_pow_sub_one]
    by_cases h8 : k < 8 <;> simp [h8, hk]
  unfold Machine.errWord
  rw [h]
  rfl

end Sys2Proof
end

