-- ==== Sys2Proof/Laws/Memory.lean ====
section
/-! SUPPORT. The laws of the byte memory and of the bits of BITS: what a read gives after a write, and that every memory
operation keeps the canonical form. Reads after writes need no premise on the form. -/

namespace Sys2Proof.Machine

/-! ### Single bytes -/

theorem Memory.read_erase (m : Memory) (a b : Nat) :
    Memory.read (Memory.erase m a) b = if b = a then 0 else Memory.read m b := by
  induction m with
  | nil => simp [Memory.erase, Memory.read]
  | cons c m ih =>
    by_cases hc : c.1 = a
    · simp only [Memory.erase, hc, if_true, ih, Memory.read]
      by_cases hb : b = a
      · simp [hb]
      · simp [hb, Ne.symm hb]
    · simp only [Memory.erase, hc, if_false, Memory.read, ih]
      by_cases hb : c.1 = b
      · have : b ≠ a := fun h => hc (hb.trans h)
        simp [hb, this]
      · simp [hb]

theorem Memory.read_insert (m : Memory) (a b : Nat) (v : Byte) (h : Memory.read m a = 0 ∧ ∀ c ∈ m, c.1 ≠ a) :
    Memory.read (Memory.insert m a v) b = if b = a then v else Memory.read m b := by
  induction m with
  | nil => simp [Memory.insert, Memory.read, eq_comm]
  | cons c m ih =>
    have hc : c.1 ≠ a := h.2 c (by simp)
    have hm : ∀ d ∈ m, d.1 ≠ a := fun d hd => h.2 d (by simp [hd])
    have hr : Memory.read m a = 0 := by simpa [Memory.read, hc] using h.1
    unfold Memory.insert
    by_cases hlt : a < c.1
    · simp only [hlt, if_true, Memory.read, eq_comm]
    · simp only [hlt, if_false, Memory.read, ih ⟨hr, hm⟩]
      by_cases hb : b = a
      · simp [hb, hc]
      · simp [hb]

theorem Memory.erase_no_key (m : Memory) (a : Nat) : ∀ c ∈ Memory.erase m a, c.1 ≠ a := by
  induction m with
  | nil => simp [Memory.erase]
  | cons c m ih =>
    by_cases hc : c.1 = a
    · simpa [Memory.erase, hc] using ih
    · simp only [Memory.erase, hc, if_false]
      intro d hd
      rcases List.mem_cons.1 hd with rfl | hd
      · exact hc
      · exact ih d hd

/-- A read after a write: the byte written at its address, the old byte everywhere else. -/
theorem Memory.read_write (m : Memory) (a b : Nat) (v : Byte) :
    Memory.read (Memory.write m a v) b = if b = a then v else Memory.read m b := by
  unfold Memory.write
  by_cases hv : v = 0
  · simp [hv, Memory.read_erase]
  · simp only [hv, if_false]
    rw [Memory.read_insert _ _ _ _ ⟨by simp [Memory.read_erase], Memory.erase_no_key m a⟩, Memory.read_erase]
    by_cases hb : b = a <;> simp [hb]

@[simp] theorem Memory.read_write_same (m : Memory) (a : Nat) (v : Byte) :
    Memory.read (Memory.write m a v) a = v := by simp [Memory.read_write]

theorem Memory.read_write_other (m : Memory) {a b : Nat} (v : Byte) (h : b ≠ a) :
    Memory.read (Memory.write m a v) b = Memory.read m b := by simp [Memory.read_write, h]

/-! ### The canonical form -/

theorem Memory.mem_erase {m : Memory} {a : Nat} {c : Host.Cell} (h : c ∈ Memory.erase m a) : c ∈ m := by
  induction m with
  | nil => simp [Memory.erase] at h
  | cons d m ih =>
    by_cases hd : d.1 = a
    · simp only [Memory.erase, hd, if_true] at h; exact List.mem_cons_of_mem _ (ih h)
    · simp only [Memory.erase, hd, if_false] at h
      rcases List.mem_cons.1 h with rfl | h
      · exact List.mem_cons_self
      · exact List.mem_cons_of_mem _ (ih h)

theorem Memory.mem_insert {m : Memory} {a : Nat} {v : Byte} {c : Host.Cell} (h : c ∈ Memory.insert m a v) :
    c = (a, v) ∨ c ∈ m := by
  induction m with
  | nil => simpa [Memory.insert] using h
  | cons d m ih =>
    unfold Memory.insert at h
    by_cases hd : a < d.1
    · simpa [hd] using h
    · simp only [hd, if_false] at h
      rcases List.mem_cons.1 h with rfl | h
      · exact .inr List.mem_cons_self
      · exact (ih h).imp_right (List.mem_cons_of_mem _)

theorem Memory.wf_erase {m : Memory} (h : Memory.wf m) (a : Nat) : Memory.wf (Memory.erase m a) := by
  refine ⟨?_, fun c hc => h.2 c (Memory.mem_erase hc)⟩
  have hp := h.1
  clear h
  induction m with
  | nil => simp [Memory.erase]
  | cons d m ih =>
    obtain ⟨hd, hm⟩ := List.pairwise_cons.1 hp
    by_cases hda : d.1 = a
    · simpa [Memory.erase, hda] using ih hm
    · simp only [Memory.erase, hda, if_false]
      exact List.pairwise_cons.2 ⟨fun c hc => hd c (Memory.mem_erase hc), ih hm⟩

theorem Memory.wf_insert {m : Memory} (h : Memory.wf m) {a : Nat} {v : Byte} (hv : v ≠ 0) (ha : ∀ c ∈ m, c.1 ≠ a) :
    Memory.wf (Memory.insert m a v) := by
  refine ⟨?_, fun c hc => ?_⟩
  · have hp := h.1
    clear h
    induction m with
    | nil => simp [Memory.insert]
    | cons d m ih =>
      obtain ⟨hd, hm⟩ := List.pairwise_cons.1 hp
      unfold Memory.insert
      by_cases hda : a < d.1
      · simp only [hda, if_true]
        refine List.pairwise_cons.2 ⟨fun c hc => ?_, hp⟩
        rcases List.mem_cons.1 hc with rfl | hc
        · exact hda
        · exact hda.trans (hd c hc)
      · simp only [hda, if_false]
        refine List.pairwise_cons.2 ⟨fun c hc => ?_, ih (fun c hc => ha c (List.mem_cons_of_mem _ hc)) hm⟩
        rcases Memory.mem_insert hc with rfl | hc
        · have := ha d List.mem_cons_self
          show d.1 < a
          omega
        · exact hd c hc
  · rcases Memory.mem_insert hc with rfl | hc
    · exact hv
    · exact h.2 c hc

/-- Storing a byte keeps the canonical form. -/
theorem Memory.wf_write {m : Memory} (h : Memory.wf m) (a : Nat) (v : Byte) : Memory.wf (Memory.write m a v) := by
  unfold Memory.write
  split
  · exact Memory.wf_erase h a
  · next hv => exact Memory.wf_insert (Memory.wf_erase h a) hv (Memory.erase_no_key m a)

theorem Memory.mem_write {m : Memory} {a : Nat} {v : Byte} {c : Host.Cell} (h : c ∈ Memory.write m a v) :
    c = (a, v) ∨ c ∈ m := by
  unfold Memory.write at h
  split at h
  · exact .inr (Memory.mem_erase h)
  · exact (Memory.mem_insert h).imp_right Memory.mem_erase

/-- An address no entry has reads as zero. -/
theorem Memory.read_of_no_key {m : Memory} {a : Nat} (h : ∀ c ∈ m, c.1 ≠ a) : Memory.read m a = 0 := by
  induction m with
  | nil => rfl
  | cons c m ih =>
    have hc : c.1 ≠ a := h c List.mem_cons_self
    simpa [Memory.read, hc] using ih fun d hd => h d (List.mem_cons_of_mem _ hd)

/-- Two memories in canonical form that read alike everywhere are equal. -/
theorem Memory.ext_of_wf {m n : Memory} (hm : Memory.wf m) (hn : Memory.wf n)
    (h : ∀ a, Memory.read m a = Memory.read n a) : m = n := by
  induction m generalizing n with
  | nil =>
    cases n with
    | nil => rfl
    | cons d n => exact absurd (by simpa [Memory.read] using (h d.1).symm) (hn.2 d List.mem_cons_self)
  | cons c m ih =>
    cases n with
    | nil => exact absurd (by simpa [Memory.read] using h c.1) (hm.2 c List.mem_cons_self)
    | cons d n =>
      obtain ⟨hc, hm1⟩ := List.pairwise_cons.1 hm.1
      obtain ⟨hd, hn1⟩ := List.pairwise_cons.1 hn.1
      have hcm : ∀ x ∈ m, x.1 ≠ c.1 := fun x hx => (hc x hx).ne'
      have hdn : ∀ x ∈ n, x.1 ≠ d.1 := fun x hx => (hd x hx).ne'
      have key : c.1 = d.1 := by
        rcases lt_trichotomy c.1 d.1 with hlt | heq | hgt
        · exfalso
          have h0 : Memory.read n c.1 = 0 := Memory.read_of_no_key fun x hx => (hlt.trans (hd x hx)).ne'
          have h1 : c.2 = 0 := by simpa [Memory.read, hlt.ne', h0] using h c.1
          exact hm.2 c List.mem_cons_self h1
        · exact heq
        · exfalso
          have h0 : Memory.read m d.1 = 0 := Memory.read_of_no_key fun x hx => (hgt.trans (hc x hx)).ne'
          have h1 : 0 = d.2 := by simpa [Memory.read, hgt.ne', h0] using h d.1
          exact hn.2 d List.mem_cons_self h1.symm
      have val : c.2 = d.2 := by simpa [Memory.read, key] using h c.1
      have rest : m = n := by
        refine ih ⟨hm1, fun x hx => hm.2 x (List.mem_cons_of_mem _ hx)⟩
          ⟨hn1, fun x hx => hn.2 x (List.mem_cons_of_mem _ hx)⟩ fun a => ?_
        by_cases ha : c.1 = a
        · rw [Memory.read_of_no_key fun x hx => ha ▸ hcm x hx, Memory.read_of_no_key fun x hx => by
            rw [← ha, key]; exact hdn x hx]
        · simpa [Memory.read, ha, key ▸ ha] using h a
      rw [Prod.ext key val, rest]

/-! ### Runs of bytes -/

@[simp] theorem loadBytes_length (m : Memory) (base n : Nat) : (loadBytes m base n).length = n := by simp [loadBytes]

@[simp] theorem loadBytes_getElem (m : Memory) (base n j : Nat) (h : j < (loadBytes m base n).length) :
    (loadBytes m base n)[j] = Memory.read m (base + j) := by simp [loadBytes]

theorem byteAt_loadBytes (m : Memory) (base n j : Nat) (h : j < n) :
    byteAt (loadBytes m base n) j = Memory.read m (base + j) := by
  simp [byteAt, List.getD_eq_getElem?_getD, loadBytes, h]

/-- A read after storing a run of bytes: the run's byte inside it, the old byte outside. -/
theorem read_storeBytes (m : Memory) (base : Nat) (vs : List Byte) (a : Nat) :
    Memory.read (storeBytes m base vs) a =
      if base ≤ a ∧ a < base + vs.length then byteAt vs (a - base) else Memory.read m a := by
  induction vs generalizing m base with
  | nil =>
    rw [if_neg (by simp)]
    rfl
  | cons v vs ih =>
    simp only [storeBytes, ih, Memory.read_write, List.length_cons]
    by_cases h1 : base + 1 ≤ a ∧ a < base + 1 + vs.length
    · have h2 : base ≤ a ∧ a < base + (vs.length + 1) := by omega
      have h3 : a - base = (a - (base + 1)) + 1 := by omega
      rw [if_pos h1, if_pos h2, h3]
      simp [byteAt]
    · by_cases h2 : a = base
      · simp [h2, byteAt]
      · have h3 : ¬ (base ≤ a ∧ a < base + (vs.length + 1)) := by omega
        rw [if_neg h1, if_neg h2, if_neg h3]

theorem read_storeBytes_inside (m : Memory) (base : Nat) (vs : List Byte) (j : Nat) (h : j < vs.length) :
    Memory.read (storeBytes m base vs) (base + j) = vs[j] := by
  have : base ≤ base + j ∧ base + j < base + vs.length := by omega
  simp [read_storeBytes, byteAt, h]

theorem read_storeBytes_outside (m : Memory) (base : Nat) (vs : List Byte) (a : Nat)
    (h : a < base ∨ base + vs.length ≤ a) : Memory.read (storeBytes m base vs) a = Memory.read m a := by
  have : ¬ (base ≤ a ∧ a < base + vs.length) := by omega
  simp [read_storeBytes, this]

/-- What was stored is what is loaded. -/
theorem loadBytes_storeBytes (m : Memory) (base : Nat) (vs : List Byte) :
    loadBytes (storeBytes m base vs) base vs.length = vs := by
  apply List.ext_getElem (by simp)
  intro j h1 h2
  rw [loadBytes_getElem, read_storeBytes_inside]

/-- Loading a run a store did not touch. -/
theorem loadBytes_storeBytes_apart (m : Memory) (base n at' : Nat) (vs : List Byte)
    (h : base + n ≤ at' ∨ at' + vs.length ≤ base) : loadBytes (storeBytes m at' vs) base n = loadBytes m base n := by
  apply List.ext_getElem (by simp)
  intro j h1 h2
  rw [loadBytes_getElem, loadBytes_getElem, read_storeBytes_outside]
  simp at h1
  omega

/-- Storing a run of bytes keeps the canonical form. -/
theorem Memory.wf_storeBytes {m : Memory} (h : Memory.wf m) (base : Nat) (vs : List Byte) :
    Memory.wf (storeBytes m base vs) := by
  induction vs generalizing m base with
  | nil => exact h
  | cons v vs ih => exact ih (Memory.wf_write h base v) (base + 1)

/-- An entry after storing a run is an old one or lies inside the run. -/
theorem mem_storeBytes {m : Memory} {base : Nat} {vs : List Byte} {c : Host.Cell} (h : c ∈ storeBytes m base vs) :
    c ∈ m ∨ (base ≤ c.1 ∧ c.1 < base + vs.length) := by
  induction vs generalizing m base with
  | nil => exact .inl h
  | cons v vs ih =>
    rcases ih h with h | h
    · rcases Memory.mem_write h with rfl | h
      · exact .inr (by simp)
      · exact .inl h
    · exact .inr (by simp only [List.length_cons]; omega)

/-! ### Runs of bits -/

theorem getLsbD_putBit (v : Byte) (k : Nat) (b : Bool) (j : Nat) (hk : k < 8) :
    (putBit v k b).getLsbD j = if j = k then b else v.getLsbD j := by
  have hbit : (1#8 <<< k).getLsbD j = decide (j = k) := by
    rw [BitVec.getLsbD_shiftLeft, BitVec.getLsbD_one]
    by_cases h : j = k
    · subst h; simp [hk]
    · simp only [h, decide_false]
      by_cases h2 : j < k
      · simp [h2]
      · have : j - k ≠ 0 := by omega
        simp [this]
  by_cases hj : j = k
  · subst hj
    cases b <;> simp [putBit, hk]
  · cases b
    · simp only [putBit, Bool.false_eq_true, if_false, hj, BitVec.getLsbD_and, BitVec.getLsbD_not, hbit, decide_false,
        Bool.not_false, Bool.and_true]
      by_cases h8 : j < 8
      · simp [h8]
      · simp [h8, BitVec.getLsbD_of_ge v j (by omega)]
    · simp [putBit, hj, hbit]

/-- A bit of BITS after a bit was written. -/
theorem readBit_writeBit (m : Memory) (i j : Nat) (b : Bool) :
    readBit (writeBit m i b) j = if j = i then b else readBit m j := by
  unfold readBit writeBit
  rw [Memory.read_write]
  by_cases hq : bitsBase + j / 8 = bitsBase + i / 8
  · have hq' : j / 8 = i / 8 := by simpa using hq
    rw [if_pos hq, getLsbD_putBit _ _ _ _ (by omega), hq']
    by_cases hr : j = i
    · simp [hr]
    · have : 7 - j % 8 ≠ 7 - i % 8 := by omega
      simp [hr, this]
  · have : j ≠ i := fun h => hq (by rw [h])
    rw [if_neg hq, if_neg this]

/-- A bit of BITS after a run of bits was stored. -/
theorem readBit_storeBits (m : Memory) (i : Nat) (bs : List Bool) (j : Nat) :
    readBit (storeBits m i bs) j = if i ≤ j ∧ j < i + bs.length then bs.getD (j - i) false else readBit m j := by
  induction bs generalizing m i with
  | nil =>
    rw [if_neg (by simp)]
    rfl
  | cons b bs ih =>
    simp only [storeBits, ih, readBit_writeBit, List.length_cons]
    by_cases h1 : i + 1 ≤ j ∧ j < i + 1 + bs.length
    · have h2 : i ≤ j ∧ j < i + (bs.length + 1) := by omega
      have h3 : j - i = (j - (i + 1)) + 1 := by omega
      rw [if_pos h1, if_pos h2, h3]
      simp
    · by_cases h2 : j = i
      · simp [h2]
      · have h3 : ¬ (i ≤ j ∧ j < i + (bs.length + 1)) := by omega
        rw [if_neg h1, if_neg h2, if_neg h3]

/-- Storing bits changes only the bytes of BITS the bits lie in. -/
theorem read_storeBits_outside (m : Memory) (i : Nat) (bs : List Bool) (a : Nat)
    (h : a < bitsBase + i / 8 ∨ bitsBase + (i + bs.length + 7) / 8 ≤ a) :
    Memory.read (storeBits m i bs) a = Memory.read m a := by
  induction bs generalizing m i with
  | nil => rfl
  | cons b bs ih =>
    have hl : (b :: bs).length = bs.length + 1 := rfl
    rw [hl] at h
    simp only [storeBits]
    rw [ih (writeBit m i b) (i + 1) (by omega)]
    unfold writeBit
    rw [Memory.read_write_other]
    omega

/-- A byte of BITS is determined by its eight bits. -/
theorem read_bits_ext {m n : Memory} {q : Nat} (h : ∀ r < 8, readBit m (8 * q + r) = readBit n (8 * q + r)) :
    Memory.read m (bitsBase + q) = Memory.read n (bitsBase + q) := by
  apply BitVec.eq_of_getLsbD_eq
  intro k hk
  have hr := h (7 - k) (by omega)
  have h1 : (8 * q + (7 - k)) / 8 = q := by omega
  have h2 : 7 - (8 * q + (7 - k)) % 8 = k := by omega
  unfold readBit at hr
  rwa [h1, h2] at hr

theorem Memory.wf_writeBit {m : Memory} (h : Memory.wf m) (i : Nat) (b : Bool) : Memory.wf (writeBit m i b) :=
  Memory.wf_write h _ _

/-- Storing a run of bits keeps the canonical form. -/
theorem Memory.wf_storeBits {m : Memory} (h : Memory.wf m) (i : Nat) (bs : List Bool) :
    Memory.wf (storeBits m i bs) := by
  induction bs generalizing m i with
  | nil => exact h
  | cons b bs ih => exact ih (Memory.wf_writeBit h i b) (i + 1)

/-- An entry after storing bits is an old one or lies in a byte of BITS a stored bit lies in. -/
theorem mem_storeBits {m : Memory} {i : Nat} {bs : List Bool} {c : Host.Cell} (h : c ∈ storeBits m i bs) :
    c ∈ m ∨ (bitsBase ≤ c.1 ∧ 8 * (c.1 - bitsBase) < i + bs.length) := by
  induction bs generalizing m i with
  | nil => exact .inl h
  | cons b bs ih =>
    rcases ih h with h | h
    · rcases Memory.mem_write h with rfl | h
      · refine .inr ⟨Nat.le_add_right _ _, ?_⟩
        simp only [List.length_cons]
        omega
      · exact .inl h
    · exact .inr ⟨h.1, by simp only [List.length_cons]; omega⟩

@[simp] theorem loadBits_length (m : Memory) (n : Nat) : (loadBits m n).length = n := by simp [loadBits]

@[simp] theorem loadBits_getElem (m : Memory) (n i : Nat) (h : i < (loadBits m n).length) :
    (loadBits m n)[i] = readBit m i := by simp [loadBits]

/-! ### Parts of a loaded run -/

/-- The first bytes of a loaded run. -/
theorem loadBytes_take (m : Memory) (base n k : Nat) (h : k ≤ n) : (loadBytes m base n).take k = loadBytes m base k := by
  apply List.ext_getElem (by simp; omega)
  intro j h1 h2
  simp

/-- A loaded run without its first bytes. -/
theorem loadBytes_drop (m : Memory) (base n k : Nat) : (loadBytes m base n).drop k = loadBytes m (base + k) (n - k) := by
  apply List.ext_getElem (by simp)
  intro j h1 h2
  simp [Nat.add_assoc]

/-- Two runs that read alike byte by byte are equal. -/
theorem loadBytes_congr {m n : Memory} {a b k : Nat} (h : ∀ j < k, Memory.read m (a + j) = Memory.read n (b + j)) :
    loadBytes m a k = loadBytes n b k := by
  apply List.ext_getElem (by simp)
  intro j h1 h2
  simp at h1
  simp [h j h1]

/-- A run in two parts. -/
theorem loadBytes_append (m : Memory) (a k l : Nat) : loadBytes m a (k + l) = loadBytes m a k ++ loadBytes m (a + k) l := by
  apply List.ext_getElem (by simp)
  intro j h1 h2
  simp only [List.getElem_append]
  split
  · simp
  · next h => simp at h; simp; congr 1; omega

/-- A byte of BITS whose eight bits are a byte's bits is that byte. -/
theorem read_of_bits {m : Memory} {q : Nat} {v : Byte} (h : ∀ i < 8, readBit m (8 * q + i) = v.getLsbD (7 - i)) :
    Memory.read m (bitsBase + q) = v := by
  apply BitVec.eq_of_getLsbD_eq
  intro k hk
  have hr := h (7 - k) (by omega)
  have h1 : (8 * q + (7 - k)) / 8 = q := by omega
  have h2 : 7 - (8 * q + (7 - k)) % 8 = k := by omega
  have h3 : 7 - (7 - k) = k := by omega
  unfold readBit at hr
  rwa [h1, h2, h3] at hr

end Sys2Proof.Machine
end

