-- ==== Sys2Proof/Laws/Operands.lean ====
section
/-! SUPPORT. The laws of the operand forms: byte order, bit packing, the packet's parts, and where the buffers lie. -/

namespace Sys2Proof.Machine

/-! ### Byte order -/

@[simp] theorem be32_length (v : Word) : (be32 v).length = 4 := rfl

@[simp] theorem be16_length (v : Half) : (be16 v).length = 2 := rfl

theorem byteAt_of_lt {b : List Byte} {j : Nat} (h : j < b.length) : byteAt b j = b[j] := by
  simp [byteAt, h]

theorem byteAt_append_left {b : List Byte} (c : List Byte) {j : Nat} (h : j < b.length) :
    byteAt (b ++ c) j = byteAt b j := by
  simp [byteAt, List.getElem?_append_left h]

theorem byteAt_append_right (b c : List Byte) (j : Nat) : byteAt (b ++ c) (b.length + j) = byteAt c j := by
  simp [byteAt, List.getElem?_append_right]

/-- Four bytes of a word, put together again, are the word. -/
theorem append_bytes32 (v : Word) :
    v.extractLsb' 24 8 ++ v.extractLsb' 16 8 ++ v.extractLsb' 8 8 ++ v.extractLsb' 0 8 = v := by
  apply BitVec.eq_of_getLsbD_eq
  intro i hi
  simp only [BitVec.getLsbD_append, BitVec.getLsbD_extractLsb']
  rcases Nat.lt_or_ge i 8 with h | h
  · simp [h]
  · rcases Nat.lt_or_ge i 16 with h2 | h2
    · have a1 : ¬ i < 8 := by omega
      have a2 : i - 8 < 8 := by omega
      have a3 : 8 + (i - 8) = i := by omega
      simp [a1, a2, a3]
    · rcases Nat.lt_or_ge i 24 with h3 | h3
      · have a1 : ¬ i < 8 := by omega
        have a2 : ¬ i - 8 < 8 := by omega
        have a4 : i - 8 - 8 < 8 := by omega
        have a3 : 16 + (i - 8 - 8) = i := by omega
        simp [a1, a2, a3, a4]
      · have a1 : ¬ i < 8 := by omega
        have a2 : ¬ i - 8 < 8 := by omega
        have a4 : ¬ i - 8 - 8 < 8 := by omega
        have a5 : i - 8 - 8 - 8 < 8 := by omega
        have a3 : 24 + (i - 8 - 8 - 8) = i := by omega
        simp [a1, a2, a3, a4, a5]

/-- Two bytes of a half word, put together again, are the half word. -/
theorem append_bytes16 (v : Half) : v.extractLsb' 8 8 ++ v.extractLsb' 0 8 = v := by
  apply BitVec.eq_of_getLsbD_eq
  intro i hi
  simp only [BitVec.getLsbD_append, BitVec.getLsbD_extractLsb']
  rcases Nat.lt_or_ge i 8 with h | h
  · simp [h]
  · have a1 : ¬ i < 8 := by omega
    have a2 : i - 8 < 8 := by omega
    have a3 : 8 + (i - 8) = i := by omega
    simp [a1, a2, a3]

theorem u32_eq (b : List Byte) (o : Nat) :
    u32 b o = byteAt b o ++ byteAt b (o + 1) ++ byteAt b (o + 2) ++ byteAt b (o + 3) := rfl

theorem u16_eq (b : List Byte) (o : Nat) : u16 b o = byteAt b o ++ byteAt b (o + 1) := rfl

@[simp] theorem payloadOf_length (f : Fields) : (payloadOf f).length = 14 := rfl

/-- The fields read back from a payload, whatever follows it (R127). -/
theorem fieldsOf_payloadOf (f : Fields) (rest : List Byte) : fieldsOf (payloadOf f ++ rest) = f := by
  have h1 : (fieldsOf (payloadOf f ++ rest)).sender = f.sender := append_bytes32 f.sender
  have h2 : (fieldsOf (payloadOf f ++ rest)).amount = f.amount := append_bytes32 f.amount
  have h3 : (fieldsOf (payloadOf f ++ rest)).ts = f.ts := append_bytes32 f.ts
  have h4 : (fieldsOf (payloadOf f ++ rest)).nonce = f.nonce := append_bytes16 f.nonce
  cases f
  simp only at h1 h2 h3 h4
  generalize fieldsOf _ = g at *
  cases g
  simp_all

/-! ### Bit packing -/

@[simp] theorem bitsFromBytes_length (b : List Byte) : (bitsFromBytes b).length = 8 * b.length := by
  simp [bitsFromBytes]

theorem bitsFromBytes_getD (b : List Byte) (n : Nat) (h : n < 8 * b.length) :
    (bitsFromBytes b).getD n false = (byteAt b (n / 8)).getLsbD (7 - n % 8) := by
  simp [bitsFromBytes, h]

@[simp] theorem bytesFromBits_length (b : List Bool) : (bytesFromBits b).length = b.length / 8 := by
  simp [bytesFromBits]

theorem byteAt_bytesFromBits (b : List Bool) (j : Nat) (h : j < b.length / 8) :
    byteAt (bytesFromBits b) j = packByte b (8 * j) := by
  simp [byteAt, bytesFromBits, h]

/-- Bit 7 − i of a packed byte is the i-th of the eight bits. -/
theorem packByte_getLsbD (b : List Bool) (o i : Nat) (h : i < 8) :
    (packByte b o).getLsbD (7 - i) = b.getD (o + i) false := by
  have key : ∀ c0 c1 c2 c3 c4 c5 c6 c7 : Bool,
      let p := BitVec.ofNat 8 ([c0.toNat * 2 ^ 7, c1.toNat * 2 ^ 6, c2.toNat * 2 ^ 5, c3.toNat * 2 ^ 4,
        c4.toNat * 2 ^ 3, c5.toNat * 2 ^ 2, c6.toNat * 2 ^ 1, c7.toNat * 2 ^ 0].sum)
      p.getLsbD 7 = c0 ∧ p.getLsbD 6 = c1 ∧ p.getLsbD 5 = c2 ∧ p.getLsbD 4 = c3 ∧
      p.getLsbD 3 = c4 ∧ p.getLsbD 2 = c5 ∧ p.getLsbD 1 = c6 ∧ p.getLsbD 0 = c7 := by decide
  obtain ⟨h0, h1, h2, h3, h4, h5, h6, h7⟩ := key (b.getD (o + 0) false) (b.getD (o + 1) false) (b.getD (o + 2) false)
    (b.getD (o + 3) false) (b.getD (o + 4) false) (b.getD (o + 5) false) (b.getD (o + 6) false) (b.getD (o + 7) false)
  have hp : ∀ k, (packByte b o).getLsbD k = (BitVec.ofNat 8 ([(b.getD (o + 0) false).toNat * 2 ^ 7,
      (b.getD (o + 1) false).toNat * 2 ^ 6, (b.getD (o + 2) false).toNat * 2 ^ 5, (b.getD (o + 3) false).toNat * 2 ^ 4,
      (b.getD (o + 4) false).toNat * 2 ^ 3, (b.getD (o + 5) false).toNat * 2 ^ 2, (b.getD (o + 6) false).toNat * 2 ^ 1,
      (b.getD (o + 7) false).toNat * 2 ^ 0].sum)).getLsbD k := fun k => rfl
  rw [hp]
  interval_cases i
  · exact h0
  · exact h1
  · exact h2
  · exact h3
  · exact h4
  · exact h5
  · exact h6
  · exact h7

/-- A byte is packed from its own bits. -/
theorem packByte_eq {b : List Bool} {o : Nat} {v : Byte} (h : ∀ i < 8, b.getD (o + i) false = v.getLsbD (7 - i)) :
    packByte b o = v := by
  apply BitVec.eq_of_getLsbD_eq
  intro k hk
  have h1 := packByte_getLsbD b o (7 - k) (by omega)
  have h2 : 7 - (7 - k) = k := by omega
  rw [h2] at h1
  rw [h1, h (7 - k) (by omega), h2]

@[simp] theorem frameOf_length (p : List Byte) : (frameOf p).length = 8 + 8 * p.length := by
  simp only [frameOf, Config.preamble, List.length_append, bitsFromBytes_length]
  rfl

/-! ### The digest -/

/-- sig8 gives eight bytes (R13). -/
@[simp] theorem sig8_length (p : List Byte) : (sig8 p).length = 8 := by simp [sig8]

/-- A packet with an eight-byte signature has 26 bytes (R126). -/
theorem packetOf_length (f : Fields) (sig : List Byte) (h : sig.length = 8) : (packetOf f sig).length = 26 := by
  simp [packetOf, h]

/-! ### Where the buffers lie -/

/-- Which buffer an address lies in (R71). -/
theorem bufferAt_eq (a : Nat) :
    bufferAt a =
      if 0x100 ≤ a ∧ a < 0x140 then some .buf
      else if 0x140 ≤ a ∧ a < 0x160 then some .pay
      else if 0x160 ≤ a ∧ a < 0x170 then some .sig
      else if 0x180 ≤ a ∧ a < 0x19A then some .cand
      else if 0x200 ≤ a ∧ a < 0x240 then some .bits
      else none := by
  have hb : Buffer.holds .buf a = decide (0x100 ≤ a ∧ a < 0x140) := by
    unfold Buffer.holds
    exact (Bool.decide_and _ _).symm
  have hp : Buffer.holds .pay a = decide (0x140 ≤ a ∧ a < 0x160) := by
    unfold Buffer.holds
    exact (Bool.decide_and _ _).symm
  have hs : Buffer.holds .sig a = decide (0x160 ≤ a ∧ a < 0x170) := by
    unfold Buffer.holds
    exact (Bool.decide_and _ _).symm
  have hc : Buffer.holds .cand a = decide (0x180 ≤ a ∧ a < 0x19A) := by
    unfold Buffer.holds
    exact (Bool.decide_and _ _).symm
  have ht : Buffer.holds .bits a = decide (0x200 ≤ a ∧ a < 0x240) := by
    unfold Buffer.holds
    exact (Bool.decide_and _ _).symm
  unfold bufferAt
  simp only [List.find?, hb, hp, hs, hc, ht]
  by_cases h1 : 0x100 ≤ a ∧ a < 0x140
  · simp [h1]
  · by_cases h2 : 0x140 ≤ a ∧ a < 0x160
    · simp [h1, h2]
    · by_cases h3 : 0x160 ≤ a ∧ a < 0x170
      · simp [h1, h2, h3]
      · by_cases h4 : 0x180 ≤ a ∧ a < 0x19A
        · simp [h1, h2, h3, h4]
        · by_cases h5 : 0x200 ≤ a ∧ a < 0x240 <;> simp [h1, h2, h3, h4, h5]

/-! ### Numbers and runs -/

/-- A number with a byte put below it. -/
theorem toNat_append8 {w : Nat} (x : BitVec w) (y : Byte) : (x ++ y).toNat = x.toNat * 256 + y.toNat := by
  rw [BitVec.toNat_append, ← Nat.shiftLeft_add_eq_or_of_lt y.isLt, Nat.shiftLeft_eq]

/-- The bits of a byte run stored in BITS from bit k on (R12). -/
theorem readBit_bitsFromBytes (m : Memory) (k : Nat) (b : List Byte) (j i : Nat) (hj : j < b.length) (hi : i < 8) :
    readBit (storeBits m k (bitsFromBytes b)) (k + 8 * j + i) = (byteAt b j).getLsbD (7 - i) := by
  rw [readBit_storeBits, if_pos (by simp; omega)]
  have : k + 8 * j + i - k = 8 * j + i := by omega
  rw [this, bitsFromBytes_getD _ _ (by omega)]
  have h1 : (8 * j + i) / 8 = j := by omega
  have h2 : (8 * j + i) % 8 = i := by omega
  rw [h1, h2]

/-- The payload of the fields read from a packet is the packet's first 14 bytes (R127). -/
theorem payloadOf_fieldsOf (b : List Byte) (h : 14 ≤ b.length) : payloadOf (fieldsOf b) = b.take 14 := by
  have e32 : ∀ x y z w : Byte, be32 (x ++ y ++ z ++ w) = [x, y, z, w] := by
    intro x y z w
    simp only [be32, List.cons.injEq, and_true]
    refine ⟨?_, ?_, ?_, ?_⟩ <;>
    · apply BitVec.eq_of_toNat_eq
      simp only [BitVec.extractLsb'_toNat, toNat_append8, Nat.shiftRight_eq_div_pow]
      have := x.isLt; have := y.isLt; have := z.isLt; have := w.isLt
      omega
  have e16 : ∀ x y : Byte, be16 (x ++ y) = [x, y] := by
    intro x y
    simp only [be16, List.cons.injEq, and_true]
    refine ⟨?_, ?_⟩ <;>
    · apply BitVec.eq_of_toNat_eq
      simp only [BitVec.extractLsb'_toNat, toNat_append8, Nat.shiftRight_eq_div_pow]
      have := x.isLt; have := y.isLt
      omega
  simp only [payloadOf, fieldsOf, u32_eq, u16_eq, e32, e16]
  apply List.ext_getElem (by simp; omega)
  intro j h1 h2
  have hj : j < 14 := by simpa using h1
  rw [List.getElem_take, ← byteAt_of_lt]
  rw [← byteAt_of_lt (by omega)]
  interval_cases j <;> rfl

/-- The fields of BUF need its first 22 bytes only (R122). -/
theorem fieldsOf_loadBytes_22 (m : Memory) : fieldsOf (loadBytes m 0x100 22) = fieldsOf (loadBytes m 0x100 26) := by
  simp only [fieldsOf, u32_eq, u16_eq]
  simp (disch := decide) only [byteAt_loadBytes]

/-- The signature in BUF (R126). -/
theorem signatureOf_loadBytes_22 (m : Memory) : signatureOf (loadBytes m 0x100 22) = loadBytes m 0x10E 8 := by
  unfold signatureOf
  rw [loadBytes_drop, loadBytes_take _ _ _ _ (by decide)]

/-- Eight loaded bytes are a signature exactly when each is the digest's byte (R13, R192). -/
theorem loadBytes_eq_sig8 (m : Memory) (a : Nat) (P : List Byte) :
    loadBytes m a 8 = sig8 P ↔ ∀ j < 8, (Config.digest (P ++ Config.secret)).toList[j]? = some (Memory.read m (a + j)) := by
  constructor
  · intro h j hj
    have := congrArg (fun l => l[j]?) h
    rw [sig8, List.getElem?_take_of_lt hj] at this
    rw [← this, List.getElem?_eq_getElem (by simpa using hj), loadBytes_getElem]
  · intro h
    apply List.ext_getElem (by simp)
    intro j h1 h2
    simp at h1
    have := h j h1
    rw [List.getElem?_eq_some_iff] at this
    obtain ⟨h3, h4⟩ := this
    simp [sig8] at h4 ⊢
    exact h4.symm

/-- The freshness test in the integers (R194). -/
theorem isFresh_iff (ts now w : Word) : isFresh ts now w = true ↔ |(now.toNat : Int) - (ts.toNat : Int)| ≤ (w.toNat : Int) := by
  unfold isFresh absDiff
  rw [decide_eq_true_iff, Int.abs_eq_natAbs]; omega

end Sys2Proof.Machine
end

