-- ==== Sys2Proof/Laws/Bus.lean ====
section
/-! SUPPORT. What a host access and an event can do, said once: where an access lands, the cases of a host read and a host
write, the cases of an event, and what the step does with the next pending event. -/

namespace Sys2Proof.Machine

/-! ### Where an access lands -/

/-- The register map lists each register at a quarter of its own address (R71). -/
theorem regMap_addr : ∀ n < 19, ∃ r, regMap[n]? = some r ∧ r.addr = 4 * n := by
  intro n hn
  interval_cases n <;> exact ⟨_, rfl, rfl⟩

theorem regMap_none {n : Nat} (h : 19 ≤ n) : regMap[n]? = none := List.getElem?_eq_none h

@[simp] theorem target_reg (r : Reg) : target .word r.addr = .reg r := by cases r <;> rfl

/-- An access reaches a word register exactly as one word at its address (R72, R73). -/
theorem target_eq_reg {size : Size} {a : Nat} {r : Reg} : target size a = .reg r ↔ size = .word ∧ a = r.addr := by
  constructor
  · intro h
    cases size
    case byte =>
      exfalso
      simp only [target] at h
      split at h <;> try cases h
      split at h <;> try cases h
      split at h <;> cases h
    case half =>
      exfalso
      simp only [target] at h
      split at h <;> cases h
    case word =>
      refine ⟨rfl, ?_⟩
      simp only [target] at h
      split at h
      · cases h
      · split at h
        · next ha =>
          rcases Nat.lt_or_ge (a / 4) 19 with hn | hn
          · obtain ⟨q, hq, hqa⟩ := regMap_addr _ hn
            rw [hq] at h
            injection h with h
            subst h
            omega
          · rw [regMap_none hn] at h
            simp only at h
            split at h <;> cases h
        · cases h
  · rintro ⟨rfl, rfl⟩
    exact target_reg r

/-- An access reaches a buffer byte exactly as one byte at an address of the buffer (R74, R75). -/
theorem target_eq_byteOf {size : Size} {a : Nat} {b : Buffer} :
    target size a = .byteOf b ↔ size = .byte ∧ bufferAt a = some b := by
  constructor
  · intro h
    cases size
    case byte =>
      refine ⟨rfl, ?_⟩
      simp only [target] at h
      split at h
      · cases h
      · split at h
        · cases h
        · split at h
          · next q hq => injection h with h; rw [hq, h]
          · cases h
    case half =>
      exfalso
      simp only [target] at h
      split at h <;> cases h
    case word =>
      exfalso
      simp only [target] at h
      split at h
      · cases h
      · split at h
        · split at h
          · cases h
          · split at h <;> cases h
        · cases h
  · rintro ⟨rfl, h⟩
    have hb := h
    rw [bufferAt_eq] at hb
    have ha : 0x100 ≤ a ∧ a < 0x240 := by
      repeat' split at hb
      all_goals first | omega | cases hb
    simp only [target]
    rw [if_neg (by omega), if_neg (by omega), h]

/-! ### The cases of an access -/

/-- A host read that has a result writes the log of reads and nothing else (R78: no read has a side effect). -/
theorem busRead_next {s t : State} {size : Size} {a : Nat} (h : busRead s size a = .next t) : ∃ r, t = s.logRead r := by
  unfold busRead at h
  split at h <;> cases h <;> exact ⟨_, rfl⟩

/-- A host write that has a result is a command word's run, a register write, a buffer byte's write, or nothing. -/
theorem busWrite_next {s t : State} {size : Size} {a : Nat} {v : Word} (h : busWrite s size a v = .next t) :
    (size = .word ∧ a = 0x000 ∧ runCommand v s = .next t) ∨
    (∃ r, r ≠ .cmd ∧ size = .word ∧ a = r.addr ∧ t = writeReg s r v) ∨
    (∃ b, size = .byte ∧ bufferAt a = some b ∧ t = writeBufferByte s b a (v.setWidth 8)) ∨ t = s := by
  unfold busWrite at h
  split at h
  · next hr => exact .inl ⟨(target_eq_reg.1 hr).1, (target_eq_reg.1 hr).2, h⟩
  · next r hne hr =>
    cases h
    exact .inr (.inl ⟨r, fun e => hne e, (target_eq_reg.1 hr).1, (target_eq_reg.1 hr).2, rfl⟩)
  · next b hb => cases h; exact .inr (.inr (.inl ⟨b, (target_eq_byteOf.1 hb).1, (target_eq_byteOf.1 hb).2, rfl⟩))
  · cases h; exact .inr (.inr (.inr rfl))
  · cases h
  · cases h

/-- A run of a command word is a command's meaning, or the raising of CmdError for an illegal word (R102, R104). -/
theorem runCommand_next {s t : State} {w : Word} (h : runCommand w s = .next t) :
    (∃ i, w = encode i ∧ exec i s = .next t) ∨ t = s.withErr (errWord (opField w) .cmdError) := by
  unfold runCommand at h
  cases hd : decode w with
  | error e => rw [hd] at h; cases h; exact .inr rfl
  | ok i =>
    rw [hd] at h
    refine .inl ⟨i, ?_, h⟩
    unfold decode at hd
    split at hd
    · next hz =>
      split at hd
      · next j hj =>
        injection hd with hd
        subst hd
        rw [word_fields w, hz, (lookupOpcode_iff _ _).1 hj]
        cases j <;> rfl
      · cases hd
    · cases hd

/-- What an event with a result does. -/
theorem takeEvent_next {s t : State} {e : Event} (h : takeEvent e s = .next t) :
    (∃ size a, e = .bus (.read size a) ∧ ∃ r, t = s.logRead r) ∨
    (∃ i, e = .bus (.write .word 0x000 (encode i)) ∧ exec i s = .next t) ∨
    (∃ w, e = .bus (.write .word 0x000 w) ∧ t = s.withErr (errWord (opField w) .cmdError)) ∨
    (∃ r v, r ≠ .cmd ∧ e = .bus (.write .word r.addr v) ∧ t = writeReg s r v) ∨
    (∃ a v b, e = .bus (.write .byte a v) ∧ bufferAt a = some b ∧ t = writeBufferByte s b a (v.setWidth 8)) ∨
    (∃ size a v, e = .bus (.write size a v) ∧ t = s) ∨
    (e = .txTurn ∧ t = txAgentTurn s) ∨ (e = .rxTurn ∧ t = rxAgentTurn s) ∨
    (∃ dt, e = .time dt ∧ t = advanceTime s dt) ∨
    (∃ env : Env, t = s.withEnv env ∧ env.time = s.env.time ∧ (∀ dt, e ≠ .time dt)) ∨
    (e = .reset ∧ t = resetStep s) := by
  cases e with
  | bus a =>
    cases a with
    | read size addr => exact .inl ⟨_, _, rfl, busRead_next h⟩
    | write size addr v =>
      have hw : busWrite s size addr v = .next t := h
      clear h
      rcases busWrite_next hw with ⟨rfl, rfl, h⟩ | ⟨r, hr, rfl, rfl, h⟩ | ⟨b, rfl, hb, h⟩ | h
      · rcases runCommand_next h with ⟨i, rfl, hi⟩ | h
        · exact .inr (.inl ⟨i, rfl, hi⟩)
        · exact .inr (.inr (.inl ⟨v, rfl, h⟩))
      · exact .inr (.inr (.inr (.inl ⟨r, v, hr, rfl, h⟩)))
      · exact .inr (.inr (.inr (.inr (.inl ⟨_, _, b, rfl, hb, h⟩))))
      · exact .inr (.inr (.inr (.inr (.inr (.inl ⟨_, _, _, rfl, h⟩)))))
  | txTurn => cases h; simp
  | rxTurn => cases h; simp
  | time dt => cases h; simp
  | clock v => cases h; refine .inr (.inr (.inr (.inr (.inr (.inr (.inr (.inr (.inr (.inl ⟨_, rfl, rfl, ?_⟩))))))))); simp
  | playOk v => cases h; refine .inr (.inr (.inr (.inr (.inr (.inr (.inr (.inr (.inr (.inl ⟨_, rfl, rfl, ?_⟩))))))))); simp
  | capOk v => cases h; refine .inr (.inr (.inr (.inr (.inr (.inr (.inr (.inr (.inr (.inl ⟨_, rfl, rfl, ?_⟩))))))))); simp
  | frame v => cases h; refine .inr (.inr (.inr (.inr (.inr (.inr (.inr (.inr (.inr (.inl ⟨_, rfl, rfl, ?_⟩))))))))); simp
  | reset => cases h; simp

/-! ### The step -/

/-- The step takes the next pending event, on the state from which it has been taken. -/
theorem step_cons {s : State} {e : Event} {rest : List Event} (h : s.pending = e :: rest) :
    step s = takeEvent e (s.withPending rest) := by
  unfold step takeNext
  rw [h]

/-- With nothing pending the step changes nothing. -/
theorem step_nil {s : State} (h : s.pending = []) : step s = .next s := by
  unfold step takeNext
  rw [h]

/-- A table word placed for the next step is run by it as a command word, on the state it was placed in. -/
theorem step_withFetchWord {s : State} {nbits w : Nat} {v : Word} (h : tableWord nbits w = some v) :
    step (s.withFetchWord nbits w) = runCommand v s := by
  unfold State.withFetchWord
  rw [h]
  exact step_cons (e := .bus (.write .word Reg.cmd.addr v)) (rest := s.pending) rfl

end Sys2Proof.Machine
end

