-- ==== Sys2Proof/Laws/Agents.lean ====
section
/-! SUPPORT. What an agent's turn and the passing of TIME can do, said once: the preamble scan, a tick's two outcomes, and
the two outcomes of a turn. -/

namespace Sys2Proof.Machine

/-! ### The scan -/

/-- A preamble needs its eight bits in the buffer. -/
theorem preambleAt_lt {buf : List Bool} {i : Nat} (h : preambleAt buf i = true) : i + 8 ≤ buf.length := by
  have := congrArg List.length (beq_iff_eq.1 h)
  simp [Config.preamble] at this
  omega

/-- The first match is the least index at which the preamble stands (R172). -/
theorem firstMatch_eq_some {buf : List Bool} {i : Nat} :
    firstMatch buf = some i ↔ preambleAt buf i = true ∧ ∀ j < i, preambleAt buf j = false := by
  unfold firstMatch
  rw [List.find?_range_eq_some]
  constructor
  · rintro ⟨h1, -, h3⟩
    exact ⟨h1, fun j hj => by simpa using h3 j hj⟩
  · rintro ⟨h1, h3⟩
    have := preambleAt_lt h1
    exact ⟨h1, by simp; omega, fun j hj => by simp [h3 j hj]⟩

/-- There is no match exactly when the preamble stands nowhere (R172). -/
theorem firstMatch_eq_none {buf : List Bool} : firstMatch buf = none ↔ ∀ i, preambleAt buf i = false := by
  unfold firstMatch
  rw [List.find?_range_eq_none]
  constructor
  · intro h i
    by_contra hc
    have hp : preambleAt buf i = true := by simpa using hc
    have := preambleAt_lt hp
    have := h i (by simp; omega)
    simp [hp] at this
  · intro h i _
    simp [h i]

/-- A match with its full window (R173). -/
theorem fullMatch_eq_some {buf : List Bool} {i : Nat} :
    fullMatch buf = some i ↔
      preambleAt buf i = true ∧ (∀ j < i, preambleAt buf j = false) ∧ i + 216 ≤ buf.length := by
  unfold fullMatch
  cases hf : firstMatch buf with
  | none =>
    simp only [reduceCtorEq, false_iff]
    rintro ⟨h, -⟩
    simp [firstMatch_eq_none.1 hf i] at h
  | some k =>
    obtain ⟨h1, h2⟩ := firstMatch_eq_some.1 hf
    have key : (preambleAt buf i = true ∧ ∀ j < i, preambleAt buf j = false) ↔ k = i := by
      rw [← firstMatch_eq_some, hf]
      simp
    simp only
    rw [← and_assoc, key]
    split
    · next h => simp only [Option.some.injEq]; exact ⟨fun e => ⟨e, e ▸ h⟩, fun e => e.1⟩
    · next h => simp only [reduceCtorEq, false_iff]; rintro ⟨rfl, h3⟩; exact h h3

/-- No match with a full window: the least match, if there is one, comes too late (R174). -/
theorem fullMatch_eq_none {buf : List Bool} :
    fullMatch buf = none ↔
      ∀ i, preambleAt buf i = true → (∀ j < i, preambleAt buf j = false) → buf.length < i + 216 := by
  rw [Option.eq_none_iff_forall_ne_some]
  constructor
  · intro h i h1 h2
    by_contra h3
    exact h i (fullMatch_eq_some.2 ⟨h1, h2, by omega⟩)
  · intro h i hi
    obtain ⟨h1, h2, h3⟩ := fullMatch_eq_some.1 hi
    have := h i h1 h2
    omega

/-! ### A tick -/

/-- A tick's bit completes a candidate: what the tick writes (R173). -/
theorem absorbBit_of_match {s : State} {b : Bool} {i : Nat} (h : fullMatch (appendBit s.rxBuf b) = some i) :
    absorbBit s b = (((((s.withMem (storeBytes s.mem candBase (candidateAt (appendBit s.rxBuf b) i))).withCandValid
      true).withIrqStatus (s.irqStatus ||| rxCandBit)).withRxBuf []).withRxState .stopped).withOut
        { s.out with captures := s.out.captures ++ [.release] } := by
  unfold absorbBit
  simp only [State.withRxBuf_rxBuf]
  rw [h]
  simp only [emitCandidate, State.releaseCapture, State.captureHeld, State.setEvent,
    RxState.holdsCapture, if_true, State.signalCapture, State.withOut, State.withRxBuf, State.withIrqStatus,
    State.withCandValid, State.withMem, State.withRxState]

/-- A tick's bit completes no candidate: what the tick writes (R174). -/
theorem absorbBit_of_no_match {s : State} {b : Bool} (h : fullMatch (appendBit s.rxBuf b) = none) :
    absorbBit s b =
      ((s.withRxBuf (appendBit s.rxBuf b)).withRxState .listening).withRxNext (s.rxNext + s.rxP.toNat) := by
  unfold absorbBit
  simp only [State.withRxBuf_rxBuf]
  rw [h]
  simp only [keepListening, State.withRxBuf, State.withRxState, State.withRxNext]

@[simp] theorem candidateAt_length (buf : List Bool) (i : Nat) (h : i + 216 ≤ buf.length) :
    (candidateAt buf i).length = 26 := by
  have : min 208 (buf.length - (i + 8)) = 208 := by omega
  simp [candidateAt, this]

/-- The length of the bit buffer after a tick has appended its bit (R171). -/
theorem appendBit_length (buf : List Bool) (b : Bool) : (appendBit buf b).length = min (buf.length + 1) 432 := by
  simp [appendBit]
  omega

/-! ### The turns -/

theorem txCompleteEnabled_iff (s : State) :
    s.txCompleteEnabled = true ↔ s.txBusy = true ∧ s.env.time = s.txDeadline := by
  unfold State.txCompleteEnabled
  rw [Bool.and_eq_true, decide_eq_true_iff]

theorem rxTickEnabled_iff (s : State) :
    s.rxTickEnabled = true ↔ s.rxState = .listening ∧ s.env.time = s.rxNext := by
  unfold State.rxTickEnabled
  rw [Bool.and_eq_true, decide_eq_true_iff, decide_eq_true_iff]

/-- A turn of the TX agent is TxComplete or nothing (R84, R150). -/
theorem txAgentTurn_cases (s : State) :
    (s.txBusy = true ∧ s.env.time = s.txDeadline ∧
      txAgentTurn s = (s.withTxBusy false).withIrqStatus (s.irqStatus ||| txDoneBit)) ∨
    (¬ (s.txBusy = true ∧ s.env.time = s.txDeadline) ∧ txAgentTurn s = s) := by
  rw [← txCompleteEnabled_iff]
  unfold txAgentTurn
  by_cases h : s.txCompleteEnabled = true
  · rw [if_pos h]
    exact .inl ⟨((txCompleteEnabled_iff s).1 h).1, ((txCompleteEnabled_iff s).1 h).2, rfl⟩
  · rw [if_neg h]
    exact .inr ⟨h, rfl⟩

/-- A turn of the RX agent is RxTick or nothing (R84, R168). -/
theorem rxAgentTurn_cases (s : State) :
    (s.rxState = .listening ∧ s.env.time = s.rxNext ∧ rxAgentTurn s = absorbBit s (classify (spectralFrame s))) ∨
    (¬ (s.rxState = .listening ∧ s.env.time = s.rxNext) ∧ rxAgentTurn s = s) := by
  rw [← rxTickEnabled_iff]
  unfold rxAgentTurn
  by_cases h : s.rxTickEnabled = true
  · rw [if_pos h]
    exact .inl ⟨((rxTickEnabled_iff s).1 h).1, ((rxTickEnabled_iff s).1 h).2, rfl⟩
  · rw [if_neg h]
    exact .inr ⟨h, rfl⟩

/-! ### Classification -/

/-- The greatest energy of a frame (R169). -/
theorem maxEnergy_eq {l : List Nat} {e : Nat} (h1 : e ∈ l) (h2 : ∀ x ∈ l, x ≤ e) : maxEnergy l = e := by
  have up : ∀ l : List Nat, (∀ x ∈ l, x ≤ e) → maxEnergy l ≤ e := by
    intro l; induction l with
    | nil => intro _; simp [maxEnergy]
    | cons a l ih => intro h; simp only [maxEnergy]; have := h a (by simp); have := ih fun x hx => h x (by simp [hx]); omega
  have lo : ∀ l : List Nat, e ∈ l → e ≤ maxEnergy l := by
    intro l; induction l with
    | nil => intro h; simp at h
    | cons a l ih =>
      intro h; simp only [maxEnergy]
      rcases List.mem_cons.1 h with rfl | h
      · omega
      · have := ih h; omega
  exact le_antisymm (up l h2) (lo l h1)

end Sys2Proof.Machine
end

