-- ==== Sys2Proof/Laws/Invariant.lean ====
section
/-! SUPPORT. Parts of keeping the invariant: a memory inside the buffers stays so when a buffer is written, and the
invariant stands when only one field changes and the new value is legal. -/

namespace Sys2Proof.Machine

/-- An address inside one of the five buffers (R71). -/
theorem bufferAt_isSome (a : Nat) (h : (0x100 ≤ a ∧ a < 0x170) ∨ (0x180 ≤ a ∧ a < 0x19A) ∨ (0x200 ≤ a ∧ a < 0x240)) : (bufferAt a).isSome = true := by
  rw [bufferAt_eq]
  repeat' split
  all_goals first | rfl | omega

/-- Storing a run of bytes inside a buffer adds no entry outside the buffers. -/
theorem inBuffers_storeBytes {m : Memory} (h : Memory.inBuffers m) (base : Nat) (vs : List Byte) (hb : ∀ j < vs.length, (bufferAt (base + j)).isSome = true) :
    Memory.inBuffers (storeBytes m base vs) := by
  intro c hc
  rcases mem_storeBytes hc with hc | ⟨h1, h2⟩
  · exact h c hc
  · have := hb (c.1 - base) (by omega)
    rwa [show base + (c.1 - base) = c.1 by omega] at this

/-- Storing bits of BITS adds no entry outside the buffers. -/
theorem inBuffers_storeBits {m : Memory} (h : Memory.inBuffers m) (vs : List Bool) (hb : vs.length ≤ 512) :
    Memory.inBuffers (storeBits m 0 vs) := by
  intro c hc
  rcases mem_storeBits hc with hc | ⟨h1, h2⟩
  · exact h c hc
  · rw [bufferAt_eq]
    have : bitsBase = 0x200 := rfl
    repeat' split
    all_goals first | rfl | omega

theorem State.Inv.withPending_inv {s : State} (h : s.Inv) (v) : (s.withPending v).Inv :=
  ⟨h.memWf, h.memInBuffers, h.lengths, h.settled, h.rxBufBound, h.noWindow, h.timers, h.capture, h.err⟩

theorem State.Inv.withErr_inv {s : State} (h : s.Inv) (v : Word) (hv : v = 0 ∨ ∃ op k, v = errWord op k) : (s.withErr v).Inv :=
  ⟨h.memWf, h.memInBuffers, h.lengths, h.settled, h.rxBufBound, h.noWindow, h.timers, h.capture, hv⟩

theorem State.Inv.withMem_inv {s : State} (h : s.Inv) (m : Memory) (h1 : Memory.wf m) (h2 : Memory.inBuffers m) : (s.withMem m).Inv :=
  ⟨h1, h2, h.lengths, h.settled, h.rxBufBound, h.noWindow, h.timers, h.capture, h.err⟩

theorem State.Inv.withFields_inv {s : State} (h : s.Inv) (v) : (s.withFields v).Inv :=
  ⟨h.memWf, h.memInBuffers, h.lengths, h.settled, h.rxBufBound, h.noWindow, h.timers, h.capture, h.err⟩

/-- The length registers may take any legal value (R46). -/
theorem State.Inv.withLength_inv {s : State} (h : s.Inv) : (∀ v ≤ 64, (s.withBufLen v).Inv) ∧ (∀ v ≤ 32, (s.withPayLen v).Inv) ∧ (∀ v ≤ 16, (s.withSigLen v).Inv) ∧ (∀ v ≤ 512, (s.withBitLen v).Inv) := by
  obtain ⟨a, b, c, d⟩ := h.lengths
  exact ⟨fun v hv => ⟨h.memWf, h.memInBuffers, ⟨hv, b, c, d⟩, h.settled, h.rxBufBound, h.noWindow, h.timers, h.capture, h.err⟩,
   fun v hv => ⟨h.memWf, h.memInBuffers, ⟨a, hv, c, d⟩, h.settled, h.rxBufBound, h.noWindow, h.timers, h.capture, h.err⟩,
   fun v hv => ⟨h.memWf, h.memInBuffers, ⟨a, b, hv, d⟩, h.settled, h.rxBufBound, h.noWindow, h.timers, h.capture, h.err⟩,
   fun v hv => ⟨h.memWf, h.memInBuffers, ⟨a, b, c, hv⟩, h.settled, h.rxBufBound, h.noWindow, h.timers, h.capture, h.err⟩⟩

/-- The invariant of a state that agrees on memory, lengths and the decoder, given its timers, capture and ERR. -/
theorem State.Inv.of_same_decoder {s t : State} (h : s.Inv) (h1 : t.mem = s.mem) (h2 : t.bufLen = s.bufLen) (h3 : t.payLen = s.payLen)
  (h4 : t.sigLen = s.sigLen) (h5 : t.bitLen = s.bitLen) (h6 : t.rxState = s.rxState) (h7 : t.rxBuf = s.rxBuf)
  (h8 : t.timersAhead) (h9 : t.captureAccounted) (h10 : t.errLegal) : t.Inv := by
  refine ⟨h1 ▸ h.memWf, h1 ▸ h.memInBuffers, ?_, ?_, ?_, ?_, h8, h9, h10⟩
  · have := h.lengths; unfold State.lengthsLegal at *; rwa [h2, h3, h4, h5]
  · have := h.settled; unfold State.rxSettled at *; rwa [h6]
  · have := h.rxBufBound; unfold State.rxBufBounded at *; rwa [h6, h7]
  · rw [h7]; exact h.noWindow

/-- The invariant of a state that agrees on the lengths, given its memory, decoder, timers and capture. -/
theorem State.Inv.of_same_lengths {s t : State} (h : s.Inv) (h1 : Memory.wf t.mem ∧ Memory.inBuffers t.mem) (h2 : t.bufLen = s.bufLen) (h3 : t.payLen = s.payLen)
  (h4 : t.sigLen = s.sigLen) (h5 : t.bitLen = s.bitLen) (h6 : t.rxSettled) (h7 : t.rxBufBounded) (h7b : noFullWindow t.rxBuf)
  (h8 : t.timersAhead) (h9 : t.captureAccounted) (h10 : t.err = s.err ∨ t.errLegal) : t.Inv := by
  refine ⟨h1.1, h1.2, ?_, h6, h7, h7b, h8, h9, ?_⟩
  · have := h.lengths; unfold State.lengthsLegal at *; rwa [h2, h3, h4, h5]
  · rcases h10 with h10 | h10
    · unfold State.errLegal; rw [h10]; exact h.err
    · exact h10

end Sys2Proof.Machine
end

