-- ==== Sys2Proof/Laws/PerInstr.lean ====
section
/-! SUPPORT. The per-instruction family WordWellFormed: the word of every command is well-formed (R100, R103, R104). -/

namespace Sys2Proof.Laws.WordWellFormed

/-- The command is well-formed as syntax, and its word's upper 24 bits are zero and its low byte is the opcode the map
lists for it. -/
def Statement (i : Instr) : Prop :=
  i.wellFormed = true ∧ wordWellFormed (encode i) = true ∧ (i.opcode, i) ∈ opcodeTable ∧
    (encode i).toNat = i.opcode.toNat

theorem payPack : Statement .payPack := ⟨rfl, by decide, by decide, by decide⟩
theorem pktEncode : Statement .pktEncode := ⟨rfl, by decide, by decide, by decide⟩
theorem pktDecode : Statement .pktDecode := ⟨rfl, by decide, by decide, by decide⟩
theorem bitsFromBytes : Statement .bitsFromBytes := ⟨rfl, by decide, by decide, by decide⟩
theorem bytesFromBits : Statement .bytesFromBits := ⟨rfl, by decide, by decide, by decide⟩
theorem frameBuild : Statement .frameBuild := ⟨rfl, by decide, by decide, by decide⟩
theorem authSign : Statement .authSign := ⟨rfl, by decide, by decide, by decide⟩
theorem authVerify : Statement .authVerify := ⟨rfl, by decide, by decide, by decide⟩
theorem authFresh : Statement .authFresh := ⟨rfl, by decide, by decide, by decide⟩
theorem validate : Statement .validate := ⟨rfl, by decide, by decide, by decide⟩
theorem txSend : Statement .txSend := ⟨rfl, by decide, by decide, by decide⟩
theorem rxStart : Statement .rxStart := ⟨rfl, by decide, by decide, by decide⟩
theorem rxStop : Statement .rxStop := ⟨rfl, by decide, by decide, by decide⟩
theorem candLoad : Statement .candLoad := ⟨rfl, by decide, by decide, by decide⟩

end Sys2Proof.Laws.WordWellFormed
end

