-- ==== Sys2Proof/Tests/Slice0.lean ====
section
/-! SUPPORT. The model's own tests, with the expected results of spec 95_test_vectors.md (each cited) or of the encoding
table R103, and one witness per statement that has hypotheses. -/

namespace Sys2Proof.Tests

open Sys2Proof Sys2Proof.Machine

/-! ### Helpers -/

/-- A quantity of the next state, none for a fault or a refusal. -/
def nextOf {α : Type} (f : State → α) : Host.Outcome State Fault Refusal → Option α
  | .next s => some (f s)
  | .fault _ => none
  | .refused _ => none

/-- The reset state with some bytes at an address. -/
def withBytes (base : Nat) (vs : List Byte) : State := State.reset.withMem (storeBytes [] base vs)

/-- The field values of the source's scenario (V1). -/
def scenario : Fields := { sender := 42, amount := 12500, ts := 1700000000, nonce := 7 }

/-- The payload of V1 with the signature 01 to 08: the packet PKT1 of 95_test_vectors.md. -/
def pkt1 : List Byte :=
  [0x00, 0x00, 0x00, 0x2A, 0x00, 0x00, 0x30, 0xD4, 0x65, 0x53, 0xF1, 0x00, 0x00, 0x07] ++
  [0x01, 0x02, 0x03, 0x04, 0x05, 0x06, 0x07, 0x08, 0x00, 0x00, 0x00, 0x00]

/-! ### Well-formedness: a word each check refuses (R104) -/

theorem test_wellFormed_refuses_upper_bits : upperBitsZero 0x101 = false ∧ wordWellFormed 0x101 = false := by decide

theorem test_wellFormed_refuses_unlisted_opcode : opcodeListed 0x07 = false ∧ wordWellFormed 0x07 = false := by decide

theorem test_wellFormed_accepts_listed_word : wordWellFormed 0x32 = true := by decide

theorem test_decode_names_the_refusal :
    decode 0x101 = .error .upperBitsNotZero ∧ decode 0x07 = .error (.unknownOpcode 0x07) := ⟨rfl, rfl⟩

/-! ### Decoding: the words of R103, written bit by bit -/

theorem test_decode_payPack : decode 0b00000000000000000000000000000001 = .ok .payPack := rfl
theorem test_decode_pktEncode : decode 0b00000000000000000000000000000010 = .ok .pktEncode := rfl
theorem test_decode_pktDecode : decode 0b00000000000000000000000000000011 = .ok .pktDecode := rfl
theorem test_decode_bitsFromBytes : decode 0b00000000000000000000000000000100 = .ok .bitsFromBytes := rfl
theorem test_decode_bytesFromBits : decode 0b00000000000000000000000000000101 = .ok .bytesFromBits := rfl
theorem test_decode_frameBuild : decode 0b00000000000000000000000000000110 = .ok .frameBuild := rfl
theorem test_decode_authSign : decode 0b00000000000000000000000000010000 = .ok .authSign := rfl
theorem test_decode_authVerify : decode 0b00000000000000000000000000010001 = .ok .authVerify := rfl
theorem test_decode_authFresh : decode 0b00000000000000000000000000010010 = .ok .authFresh := rfl
theorem test_decode_validate : decode 0b00000000000000000000000000010011 = .ok .validate := rfl
theorem test_decode_txSend : decode 0b00000000000000000000000000100000 = .ok .txSend := rfl
theorem test_decode_rxStart : decode 0b00000000000000000000000000110000 = .ok .rxStart := rfl
theorem test_decode_rxStop : decode 0b00000000000000000000000000110001 = .ok .rxStop := rfl
theorem test_decode_candLoad : decode 0b00000000000000000000000000110010 = .ok .candLoad := rfl

/-! ### Packet Codec -/

/-- V10, third tuple: byte order of each field. -/
theorem test_payPack_V10 :
    nextOf (fun t => (t.payBytes 14, t.payLen)) (exec .payPack (State.reset.withFields
      { sender := 0xDEADBEEF, amount := 0x01020304, ts := 0x80000000, nonce := 0xA55A })) =
    some ([0xDE, 0xAD, 0xBE, 0xEF, 0x01, 0x02, 0x03, 0x04, 0x80, 0x00, 0x00, 0x00, 0xA5, 0x5A], 14) := by decide

/-- V4: PKT_ENCODE of the scenario's fields and the signature 01 to 08 gives PKT1. -/
theorem test_pktEncode_V4 :
    nextOf (fun t => (t.bufBytes 26, t.bufLen)) (exec .pktEncode (((withBytes 0x160
      [1, 2, 3, 4, 5, 6, 7, 8]).withFields scenario).withSigLen 8)) = some (pkt1, 26) := by decide

/-- V11: SIG_LEN = 9 raises FormatError. -/
theorem test_pktEncode_V11 :
    nextOf (fun t => (t.err, t.bufLen)) (exec .pktEncode (State.reset.withSigLen 9)) = some (0x0201, 0) := by decide

/-- V12: PKT_DECODE of PKT1. -/
theorem test_pktDecode_V12 :
    nextOf (fun t => (t.fields, t.sigBytes 8, t.sigLen)) (exec .pktDecode ((withBytes 0x100 pkt1).withBufLen 26)) =
    some (scenario, [1, 2, 3, 4, 5, 6, 7, 8], 8) := by decide

/-- V12: BUF_LEN = 25 raises FormatError. -/
theorem test_pktDecode_short_V12 :
    nextOf (fun t => (t.err, t.fields.sender)) (exec .pktDecode ((withBytes 0x100 pkt1).withBufLen 25)) =
    some (0x0301, 0) := by decide

/-- V13: the bits of 80 01 FF, most significant first. -/
theorem test_bitsFromBytes_V13 :
    nextOf (fun t => (t.bits 24, t.bitLen)) (exec .bitsFromBytes ((withBytes 0x100 [0x80, 0x01, 0xFF]).withBufLen 3)) =
    some ([true, false, false, false, false, false, false, false, false, false, false, false, false, false, false, true,
      true, true, true, true, true, true, true, true], 24) := by decide +kernel

/-- V14: AA 55 C0 with BIT_LEN = 18, the two trailing bits are dropped. -/
theorem test_bytesFromBits_V14 :
    nextOf (fun t => (t.bufBytes 3, t.bufLen)) (exec .bytesFromBits ((withBytes 0x200 [0xAA, 0x55, 0xC0]).withBitLen 18)) =
    some ([0xAA, 0x55, 0x00], 2) := by decide

/-- V15: the byte view of FRM1 is AA, then PKT1. -/
theorem test_frameBuild_V15 :
    nextOf (fun t => (loadBytes t.mem 0x200 28, t.bitLen)) (exec .frameBuild ((withBytes 0x100 pkt1).withBufLen 26)) =
    some (0xAA :: pkt1 ++ [0x00], 216) := by decide +kernel

/-- V15: a bare payload raises FormatError. -/
theorem test_frameBuild_short_V15 :
    nextOf (fun t => (t.err, t.bitLen)) (exec .frameBuild (State.reset.withBufLen 14)) = some (0x0601, 0) := by decide

/-! ### Authenticator -/

/-- V21: SIG_LEN = 8 and ERR = 0 after AUTH_SIGN. -/
theorem test_authSign_V21 :
    nextOf (fun t => (t.sigLen, t.err)) (exec .authSign (State.reset.withErr 0x0705)) = some (8, 0) := rfl

/-- V22: a SIG_LEN of 7 gives VOK = 0 and no error. -/
theorem test_authVerify_V22 :
    nextOf (fun t => (t.vok, t.err)) (exec .authVerify ((State.reset.withSigLen 7).withVok true)) = some (false, 0) := rfl

/-- V23: F_TS = 5, NOW = 15 is fresh; F_TS = 5, NOW = 16 is not (WINDOW = 10). -/
theorem test_authFresh_V23 :
    nextOf (fun t => t.fok) (exec .authFresh ((State.reset.withFields { scenario with ts := 5 }).withNow 15)) = some true ∧
    nextOf (fun t => t.fok) (exec .authFresh ((State.reset.withFields { scenario with ts := 5 }).withNow 16)) =
      some false := by decide

/-- V23: F_TS = 0xFFFFFFFF, NOW = 5: no wrap-around. -/
theorem test_authFresh_no_wrap_V23 :
    nextOf (fun t => t.fok) (exec .authFresh ((State.reset.withFields { scenario with ts := 0xFFFFFFFF }).withNow 5)) =
      some false := by decide

/-- V24 (e): BUF_LEN = 25 raises FormatError, and BUF_LEN becomes 0. -/
theorem test_validate_V24e :
    nextOf (fun t => (t.err, t.bufLen)) (exec .validate ((withBytes 0x100 pkt1).withBufLen 25)) = some (0x1301, 0) := by
  decide

/-! ### Modem Encoder -/

/-- V33: BITS = 1,1,0 with TX_BITDUR = 10000, TX_GAPDUR = 0, TIME = 1000. -/
theorem test_txSend_V33 :
    nextOf (fun t => (t.out.tones, t.txBusy)) (exec .txSend (((((withBytes 0x200 [0xC0]).withBitLen 3).withTxBitdur
      10000).withTxGapdur 0).withEnv { State.reset.env with time := 1000 })) =
    some ([{ t0 := 1000, bursts := [{ start := 51000, freq := 19500, dur := 10000, ramp := 2500 },
      { start := 61000, freq := 19500, dur := 10000, ramp := 2500 },
      { start := 71000, freq := 18500, dur := 10000, ramp := 2500 }] }], true) := by decide

/-- V37: TX_SEND while busy raises CmdError and emits nothing. -/
theorem test_txSend_busy_V37 :
    nextOf (fun t => (t.err, t.out.tones)) (exec .txSend (State.reset.withTxBusy true)) = some (0x2005, []) := by decide

/-- V34: the ramp lengths. -/
theorem test_rampLen_V34 :
    [30000, 16000, 15999, 8000, 17, 4, 3, 1, 0xFFFFFFFF].map rampLen = [4000, 4000, 3999, 2000, 4, 1, 0, 0, 4000] := by
  decide

/-- V31, V36: Tsched of 216 and of 512 bits at the defaults. -/
theorem test_totalScheduled_V31_V36 :
    totalScheduled 216 30000 4000 = 7390000 ∧ totalScheduled 512 30000 4000 = 17454000 ∧
    totalScheduled 0 30000 4000 = 50000 := by decide

/-- V35: the envelope at the defaults. -/
theorem test_envelope_V35 :
    envelope 30000 1000 = 1 / 4 ∧ envelope 30000 15000 = 1 ∧ envelope 30000 28000 = 1 / 2 ∧ envelope 30000 30000 = 0 := by
  have h : rampLen 30000 = 4000 := rfl
  unfold envelope
  rw [h]
  norm_num

/-! ### Modem Decoder -/

/-- V53: RX_START from reset at TIME = 1000000: STATUS = 0x02, RX_NEXT = 1030000. -/
theorem test_rxStart_V53 :
    nextOf (fun t => (t.statusWord, t.rxNext, t.rxP)) (exec .rxStart (State.reset.withEnv
      { State.reset.env with time := 1000000 })) = some (0x02, 1030000, 30000) := by decide

/-- V53: cap_ok = false from IDLE: ERR = 0x3004, STATUS = 0. -/
theorem test_rxStart_capture_V53 :
    nextOf (fun t => (t.err, t.statusWord)) (exec .rxStart (State.reset.withEnv
      { State.reset.env with capOk := false })) = some (0x3004, 0) := by decide

/-- V52: RX_STOP after some ticks: STATUS = 0x08, RXBUF empty; on the spectrum port a release (R227). -/
theorem test_rxStop_V52 :
    nextOf (fun t => (t.statusWord, t.rxBuf, t.out.captures)) (exec .rxStop ((State.reset.withRxState
      .listening).withRxBuf [true, false])) = some (0x08, [], [.release]) := by decide

/-- V54: CAND_LOAD of PKT1. -/
theorem test_candLoad_V54 :
    nextOf (fun t => (t.bufBytes 26, t.bufLen, t.candValid)) (exec .candLoad ((withBytes 0x180 pkt1).withCandValid true)) =
    some (pkt1, 26, false) := by decide

/-- V54: from reset there is no candidate. -/
theorem test_candLoad_none_V54 : nextOf (fun t => t.err) (exec .candLoad State.reset) = some 0x3205 := by decide

/-- V41: with FS_HZ = 48000 and NFFT = 96 bin 38 is exactly 19000 Hz (bit 0), bin 39 is above it (bit 1). -/
theorem test_classify_V41 :
    classifyWith 48000 96 (List.replicate 38 0 ++ [1, 0]) = false ∧
    classifyWith 48000 96 (List.replicate 39 0 ++ [1]) = true := by decide +kernel

/-- V42: the lowest of the strongest bins wins; silence is bin 0. -/
theorem test_dominantBin_V42 :
    dominantBin [0, 0, 200, 0, 200] = 2 ∧ dominantBin [255, 255, 255] = 0 ∧ dominantBin [0, 0, 0] = 0 := by decide

/-- V44: one tick's bookkeeping. -/
theorem test_tick_V44 :
    (fun t : State => (t.rxBuf, t.rxState, t.rxNext, t.candValid)) (absorbBit (((State.reset.withRxState
      .listening).withRxP 30000).withRxNext 1030000) true) = ([true], .listening, 1060000, false) := by decide

/-- V46: with five zero bits ahead FRM1's match is at i = 5. -/
theorem test_fullMatch_V46 : fullMatch (List.replicate 5 false ++ frameOf pkt1) = some 5 := by
  rw [fullMatch_eq_some]
  exact ⟨by decide +kernel, by decide +kernel, by decide +kernel⟩

/-- V48: a window two bits early starts with 80 00 00 0A. -/
theorem test_shifted_window_V48 :
    bytesFromBits (((frameOf pkt1).drop 6).take 32) = [0x80, 0x00, 0x00, 0x0A] := by decide

/-! ### The register space, errors and events -/

/-- V60: illegal words; the word 0x80000020 is not TX_SEND. -/
theorem test_illegal_words_V60 :
    nextOf (fun t => t.err) (runCommand 0x00 State.reset) = some 0x0005 ∧
    nextOf (fun t => t.err) (runCommand 0x101 State.reset) = some 0x0105 ∧
    nextOf (fun t => (t.err, t.txBusy)) (runCommand 0x80000020 State.reset) = some (0x2005, false) := by decide

/-- V62: F_NONCE keeps 16 bits, IRQ_ENABLE two, BUF_LEN ignores 65. -/
theorem test_register_writes_V62 :
    nextOf (fun t => readReg t .fNonce) (busWrite State.reset .word 0x020 0x12345678) = some 0x5678 ∧
    nextOf (fun t => readReg t .irqEnable) (busWrite State.reset .word 0x010 0xFFFFFFFF) = some 3 ∧
    nextOf (fun t => t.bufLen) (busWrite (State.reset.withBufLen 64) .word 0x03C 65) = some 64 := by decide

/-- V54, V62: a byte write inside CAND is ignored, the last byte of BUF takes one. -/
theorem test_byte_writes_V62 :
    nextOf (fun t => Memory.read t.mem 0x180) (busWrite State.reset .byte 0x180 0xFF) = some 0 ∧
    nextOf (fun t => Memory.read t.mem 0x13F) (busWrite State.reset .byte 0x13F 0x77) = some 0x77 := by decide

/-- V63: clearing TX_DONE alone. -/
theorem test_irq_clear_V63 :
    nextOf (fun t => t.irqStatus) (busWrite (State.reset.withIrqStatus 3) .word 0x00C 1) = some 2 := by decide

/-- V30: TxComplete gives STATUS = 0 and IRQ_STATUS = 1. -/
theorem test_txComplete_V30 :
    (txAgentTurn (State.reset.withTxBusy true)).statusWord = 0 ∧
    (txAgentTurn (State.reset.withTxBusy true)).irqStatus = 1 := by decide

/-- V66: a reset while listening releases the capture resource and keeps the tone trace. -/
theorem test_reset_V66 :
    (resetStep ((State.reset.withRxState .listening).emitTone { t0 := 7, bursts := [] })).out =
      { tones := [{ t0 := 7, bursts := [] }], captures := [.release], reads := [] } ∧
    (resetStep (State.reset.withTxBusy true)).txBusy = false := by decide

/-- A placed word is run by the next step: FRAME_BUILD from reset (V65). -/
theorem test_step_runs_placed_word :
    nextOf (fun t => (t.err, t.pending)) (step (State.reset.withFetchWord 32 0x06)) = some (0x0601, []) := by decide

/-- The core the host runs takes the same step: CAND_LOAD from reset (V65). -/
theorem test_core_step :
    nextOf (fun t => t.err) (Sys2Proof.core.step (State.reset.withFetchWord 32 0x32)) = some 0x3205 := rfl

/-! ### Witnesses: a state and operands that meet the hypotheses of each statement of Certificates/Slice0/Obligations.lean,
and of each of its clauses -/

theorem witness_DecodeMatchesEncode : decode 0x13 = .ok .validate ∧ (0x13 : Word) = encode .validate := ⟨rfl, rfl⟩

theorem witness_IllegalWordRaisesCmdError :
    (0x07 : Word) ∉ ([0x01, 0x02, 0x03, 0x04, 0x05, 0x06, 0x10, 0x11, 0x12, 0x13, 0x20, 0x30, 0x31, 0x32] : List Word) ∧
    (0x101 : Word) ∉ ([0x01, 0x02, 0x03, 0x04, 0x05, 0x06, 0x10, 0x11, 0x12, 0x13, 0x20, 0x30, 0x31, 0x32] : List Word) := by
  decide

theorem witness_StepRunsDecodedCommand :
    (State.reset.withFetchWord 32 0x31).pending = .bus (.write .word 0x000 0x31) :: [] ∧ decode 0x31 = .ok .rxStop :=
  ⟨rfl, rfl⟩

theorem witness_PktEncodeResult :
    (State.reset.withSigLen 8).sigLen = 8 ∧ (State.reset.withSigLen 7).sigLen ≠ 8 ∧ (State.reset.withSigLen 9).sigLen ≠ 8 :=
  by decide

theorem witness_PktDecodeResult :
    (State.reset.withBufLen 26).bufLen = 26 ∧ (State.reset.withBufLen 25).bufLen ≠ 26 ∧
    (State.reset.withBufLen 27).bufLen ≠ 26 := by decide

theorem witness_FrameBuildResult :
    (State.reset.withBufLen 26).bufLen = 26 ∧ (State.reset.withBufLen 14).bufLen ≠ 26 := by decide

theorem witness_PacketRoundTrip :
    ((withBytes 0x160 [1, 2, 3, 4, 5, 6, 7, 8]).withSigLen 8).sigLen = 8 ∧
    ((withBytes 0x100 pkt1).withBufLen 26).bufLen = 26 := ⟨rfl, rfl⟩

theorem witness_BitPackingRoundTrip : (State.reset.withBufLen 64).bufLen ≤ 64 := by decide

theorem witness_FrameRoundTrip : ((withBytes 0x100 pkt1).withBufLen 26).bufLen = 26 := rfl

/-- The longest payload, and a signature byte changed to a value that differs. -/
theorem witness_SignatureVerifies :
    (State.reset.withPayLen 32).payLen ≤ 32 ∧
    ∃ t, exec .authSign (State.reset.withPayLen 32) = .next t ∧
      Memory.read t.mem (0x160 + 7) + 1 ≠ Memory.read t.mem (0x160 + 7) := by
  have h : ∀ b : Byte, b + 1 ≠ b := by decide
  exact ⟨by decide, _, exec_of_ready (i := .authSign) trivial, h _⟩

/-- The reset state with F_TS, NOW and WINDOW set. -/
def freshState (ts now window : Word) : State :=
  ((State.reset.withFields { scenario with ts := ts }).withNow now).withWindow window

/-- One state for each clause: both boundaries, one past each, WINDOW = 0, WINDOW = 2^32 − 1, and the widest gap (V23). -/
theorem witness_FreshnessCorners :
    (freshState 5 15 10).now.toNat = (freshState 5 15 10).fields.ts.toNat + (freshState 5 15 10).window.toNat ∧
    (freshState 15 5 10).fields.ts.toNat = (freshState 15 5 10).now.toNat + (freshState 15 5 10).window.toNat ∧
    (freshState 5 16 10).now.toNat > (freshState 5 16 10).fields.ts.toNat + (freshState 5 16 10).window.toNat ∧
    (freshState 16 5 10).fields.ts.toNat > (freshState 16 5 10).now.toNat + (freshState 16 5 10).window.toNat ∧
    (freshState 5 6 0).window = 0 ∧ (freshState 0 0xFFFFFFFF 0xFFFFFFFF).window = 0xFFFFFFFF ∧
    (freshState 0 0xFFFFFFFF 10).fields.ts = 0 ∧ (freshState 0 0xFFFFFFFF 10).now = 0xFFFFFFFF := by decide

/-- The packet of the scenario, signed, in BUF. -/
def signedState : State :=
  (withBytes 0x100 (packetOf scenario (sig8 (payloadOf scenario)))).withBufLen 26

/-- BUF after a signed packet has been stored. -/
theorem signedState_loads :
    loadBytes signedState.mem 0x100 26 = packetOf scenario (sig8 (payloadOf scenario)) := by
  have h := loadBytes_storeBytes [] 0x100 (packetOf scenario (sig8 (payloadOf scenario)))
  rwa [packetOf_length _ _ (sig8_length _)] at h

theorem signedState_payload : loadBytes signedState.mem 0x100 14 = payloadOf scenario := by
  rw [← loadBytes_take _ _ 26 _ (by decide), signedState_loads, packetOf, List.append_assoc]
  exact List.take_left' (payloadOf_length _)

theorem signedState_signature : loadBytes signedState.mem 0x10E 8 = sig8 (payloadOf scenario) := by
  have h := loadBytes_drop signedState.mem 0x100 22 14
  rw [← loadBytes_take _ _ 26 _ (by decide), signedState_loads, packetOf,
    List.take_left' (by simp [payloadOf_length]), List.drop_left' (payloadOf_length _)] at h
  exact h.symm

theorem signedState_timestamp : (u32 (loadBytes signedState.mem 0x100 26) 8).toNat = 1700000000 := by
  rw [signedState_loads, packetOf, List.append_assoc]
  have h : u32 (payloadOf scenario ++ (sig8 (payloadOf scenario) ++ [0, 0, 0, 0])) 8 = scenario.ts :=
    congrArg Fields.ts (fieldsOf_payloadOf scenario _)
  rw [h]
  rfl

/-- A state whose packet has its first signature byte changed. -/
def forgedState : State :=
  signedState.withMem (Memory.write signedState.mem 0x10E (Memory.read signedState.mem 0x10E + 1))

/-- The four outcomes: a short buffer, a wrong signature, a stale packet and a fresh one (V24). -/
theorem witness_ValidateResult :
    (signedState.withBufLen 25).bufLen ≠ 26 ∧
    (forgedState.bufLen = 26 ∧ sig8 (loadBytes forgedState.mem 0x100 14) ≠ loadBytes forgedState.mem 0x10E 8) ∧
    (signedState.bufLen = 26 ∧ sig8 (loadBytes signedState.mem 0x100 14) = loadBytes signedState.mem 0x10E 8 ∧
      |(signedState.now.toNat : Int) - ((u32 (loadBytes signedState.mem 0x100 26) 8).toNat : Int)| >
        (signedState.window.toNat : Int)) ∧
    ((signedState.withNow 1700000010).bufLen = 26 ∧
      sig8 (loadBytes (signedState.withNow 1700000010).mem 0x100 14) =
        loadBytes (signedState.withNow 1700000010).mem 0x10E 8 ∧
      |((signedState.withNow 1700000010).now.toNat : Int) -
        ((u32 (loadBytes (signedState.withNow 1700000010).mem 0x100 26) 8).toNat : Int)| ≤
        ((signedState.withNow 1700000010).window.toNat : Int)) := by
  have hs : sig8 (loadBytes signedState.mem 0x100 14) = loadBytes signedState.mem 0x10E 8 := by
    rw [signedState_payload, signedState_signature]
  refine ⟨by decide, ⟨rfl, fun h => ?_⟩, ⟨rfl, hs, ?_⟩, rfl, hs, ?_⟩
  · have hp : loadBytes forgedState.mem 0x100 14 = loadBytes signedState.mem 0x100 14 :=
      loadBytes_congr fun j hj => Memory.read_write_other _ _ (by omega)
    rw [hp, hs] at h
    have hb := congrArg (fun l => byteAt l 0) h
    simp only [byteAt_loadBytes _ _ _ _ (show 0 < 8 by decide), Nat.add_zero] at hb
    have hw : Memory.read forgedState.mem 0x10E = Memory.read signedState.mem 0x10E + 1 :=
      Memory.read_write_same _ _ _
    rw [hw] at hb
    have hne : ∀ b : Byte, b ≠ b + 1 := by decide
    exact hne _ hb
  · rw [signedState_timestamp]
    decide
  · show |((1700000010 : Word).toNat : Int) - ((u32 (loadBytes signedState.mem 0x100 26) 8).toNat : Int)| ≤ _
    rw [signedState_timestamp]
    decide

/-- A fresh state, a stale one, and a byte that differs. -/
theorem witness_SendThenValidate :
    isFresh State.reset.fields.ts State.reset.now State.reset.window = true ∧
    isFresh (State.reset.withNow 11).fields.ts (State.reset.withNow 11).now (State.reset.withNow 11).window = false ∧
    ∀ m : Memory, Memory.read m 0x10E + 1 ≠ Memory.read m 0x10E := by
  have h : ∀ b : Byte, b + 1 ≠ b := by decide
  exact ⟨by decide, by decide, fun m => h _⟩

/-- A VALIDATE that succeeded, and a later NOW at which the packet is still fresh (V26). -/
theorem witness_ReplayIsAccepted :
    ∃ t, exec .validate (signedState.withNow 1700000003) = .next t ∧ t.err = 0 ∧
      |((1700000010 : Word).toNat : Int) - (t.fields.ts.toNat : Int)| ≤ (t.window.toNat : Int) := by
  have hs : sig8 ((signedState.withNow 1700000003).bufBytes 14) =
      signatureOf ((signedState.withNow 1700000003).bufBytes 22) := by
    show sig8 (loadBytes signedState.mem 0x100 14) = signatureOf (loadBytes signedState.mem 0x100 22)
    rw [signatureOf_loadBytes_22, signedState_payload, signedState_signature]
  have ht : u32 (loadBytes signedState.mem 0x100 22) 8 = u32 (loadBytes signedState.mem 0x100 26) 8 :=
    congrArg Fields.ts (fieldsOf_loadBytes_22 signedState.mem)
  have hf : isFresh (u32 ((signedState.withNow 1700000003).bufBytes 22) 8) 1700000003 10 = true := by
    show isFresh (u32 (loadBytes signedState.mem 0x100 22) 8) 1700000003 10 = true
    rw [ht, isFresh_iff, signedState_timestamp]
    decide
  refine ⟨_, exec_of_ready (i := .validate) ⟨rfl, hs, hf⟩, rfl, ?_⟩
  show |((1700000010 : Word).toNat : Int) - ((u32 (loadBytes signedState.mem 0x100 22) 8).toNat : Int)| ≤ _
  rw [ht, signedState_timestamp]
  decide

theorem witness_LongValidationAgrees : signedState.bufLen = 26 := rfl

theorem witness_TxSendResult :
    State.reset.txBusy = false ∧ State.reset.env.playOk = true ∧ State.reset.txBitdur ≠ 0 := by decide

theorem witness_TxSendErrors :
    (State.reset.withTxBusy true).txBusy = true ∧ (State.reset.withEnv { State.reset.env with playOk := false }).txBusy = false ∧
    (State.reset.withEnv { State.reset.env with playOk := false }).env.playOk = false := by decide

theorem witness_ZeroDurationsAreRefused :
    (State.reset.withTxBitdur 0).txBusy = false ∧ (State.reset.withTxBitdur 0).env.playOk = true ∧
    (State.reset.withTxBitdur 0).txBitdur = 0 ∧ (State.reset.withRxPeriod 0).rxState ≠ .listening ∧
    (State.reset.withRxPeriod 0).env.capOk = true ∧ (State.reset.withRxPeriod 0).rxPeriod = 0 := by decide

theorem witness_ScheduleSpacing :
    [true, false] ≠ [] ∧ (scheduleOf 0 3 1 [true, false]).bursts[0]? = some (burstOf 0 3 1 0 true) ∧
    (scheduleOf 0 3 1 [true, false]).bursts[0 + 1]? = some (burstOf 0 3 1 1 false) := by decide

/-- The ends, the ramp, the flat part, and a burst with a ramp. -/
theorem witness_EnvelopeShape :
    (0 : Rat) ≤ 30000 ∧ (30000 : Rat) ≤ (30000 : Nat) ∧ (rampLen 30000 : Rat) ≤ 15000 ∧
    (15000 : Rat) ≤ ((30000 : Nat) : Rat) - rampLen 30000 ∧ 0 < rampLen 30000 := by
  have h : rampLen 30000 = 4000 := rfl
  rw [h]
  norm_num

/-- A send whose deadline is reached, and one whose deadline is not. -/
theorem witness_TxCompleteStep :
    (((State.reset.withTxBusy true).withPending [.txTurn]).pending = .txTurn :: [] ∧
      ((State.reset.withTxBusy true).withPending [.txTurn]).txBusy = true ∧
      ((State.reset.withTxBusy true).withPending [.txTurn]).env.time =
        ((State.reset.withTxBusy true).withPending [.txTurn]).txDeadline) ∧
    ((State.reset.withTxDeadline 7).withPending [.txTurn]).pending = .txTurn :: [] ∧
    ¬ (((State.reset.withTxDeadline 7).withPending [.txTurn]).txBusy = true ∧
      ((State.reset.withTxDeadline 7).withPending [.txTurn]).env.time =
        ((State.reset.withTxDeadline 7).withPending [.txTurn]).txDeadline) := by decide

/-- A send in flight: a command word, a completion, and a reset. -/
theorem witness_NothingCancelsSend :
    (State.reset.withTxBusy true).txBusy = true ∧
    takeEvent (.bus (.write .word 0x000 0x07)) (State.reset.withTxBusy true) =
      .next ((State.reset.withTxBusy true).withErr 0x0705) ∧
    (∃ t, takeEvent .txTurn (State.reset.withTxBusy true) = .next t ∧ t.txBusy = false) ∧
    ∃ t, takeEvent .reset (State.reset.withTxBusy true) = .next t ∧ t.txBusy = false :=
  ⟨rfl, rfl, ⟨_, rfl, rfl⟩, _, rfl, rfl⟩

theorem witness_RxStartResult :
    State.reset.rxState ≠ .listening ∧ State.reset.env.capOk = true ∧ State.reset.rxPeriod ≠ 0 := by decide

theorem witness_RxStartErrors :
    (State.reset.withRxState .listening).rxState = .listening ∧
    (State.reset.withEnv { State.reset.env with capOk := false }).rxState ≠ .listening ∧
    (State.reset.withEnv { State.reset.env with capOk := false }).env.capOk = false := by decide

theorem witness_CandLoadResult :
    (State.reset.withCandValid true).candValid = true ∧ State.reset.candValid = false := by decide

theorem witness_ClassificationPicksLowestPeak :
    [0, 9, 3, 9][1]? = some 9 ∧ (∀ x ∈ [0, 9, 3, 9], x ≤ 9) ∧
    ∀ j x, j < 1 → [0, 9, 3, 9][j]? = some x → x < 9 := by
  refine ⟨rfl, by decide, fun j x hj hx => ?_⟩
  obtain rfl : j = 0 := by omega
  simp at hx
  omega

theorem witness_BufferBoundKept :
    (List.replicate 432 true).length ≤ 432 ∧ (List.replicate 431 true).length ≤ 432 := by
  rw [List.length_replicate, List.length_replicate]
  omega

/-- A frame of silence classifies as 0 on every instance (V42). -/
theorem classify_silence (s : State) (h : s.env.frame = []) : classify (spectralFrame s) = false := by
  have hz : ∀ n : Nat, frameOnPort n Config.ew [] = List.replicate n 0 := by
    intro n
    apply List.ext_getElem (by simp [frameOnPort])
    intro j h1 h2
    simp [frameOnPort]
  have hm : ∀ n : Nat, maxEnergy (List.replicate n 0) = 0 := by
    intro n
    induction n with
    | zero => rfl
    | succ n ih => simp [List.replicate_succ, maxEnergy, ih]
  have hd : ∀ n : Nat, dominantBin (List.replicate n 0) = 0 := by
    intro n
    unfold dominantBin
    rw [hm]
    cases n with
    | zero => rfl
    | succ n => rw [List.replicate_succ, List.findIdx_cons]; rfl
  unfold classify classifyWith spectralFrame
  rw [h, hz, hd]
  simp

/-- A decoder about to take the last bit of the frame of twenty-six zero bytes, with silence on the port. -/
def lastBitState : State :=
  ((State.reset.withRxState .listening).withRxBuf (Config.preamble ++ List.replicate 207 false)).withPending [.rxTurn]

theorem lastBitState_buffer :
    appendBit lastBitState.rxBuf (classify (spectralFrame lastBitState)) = Config.preamble ++ List.replicate 208 false := by
  rw [classify_silence _ rfl]
  decide +kernel

theorem witness_TickEmitsCandidate :
    lastBitState.pending = .rxTurn :: [] ∧ lastBitState.rxState = .listening ∧
    lastBitState.env.time = lastBitState.rxNext ∧
    Config.preamble ++ List.replicate 208 false = appendBit lastBitState.rxBuf (classify (spectralFrame lastBitState)) ∧
    ((Config.preamble ++ List.replicate 208 false).drop 0).take 8 = [true, false, true, false, true, false, true, false] ∧
    (∀ j < 0, ((Config.preamble ++ List.replicate 208 false).drop j).take 8 ≠
      [true, false, true, false, true, false, true, false]) ∧
    0 + 216 ≤ (Config.preamble ++ List.replicate 208 false).length :=
  ⟨rfl, rfl, rfl, lastBitState_buffer.symm, rfl, fun j h => absurd h (Nat.not_lt_zero j), by decide +kernel⟩

/-- A first tick, after which there is no match, and a turn while the decoder is idle. -/
theorem witness_TickDefers :
    (∃ s : State, s.pending = .rxTurn :: [] ∧ s.rxState = .listening ∧ s.env.time = s.rxNext ∧
      [false] = appendBit s.rxBuf (classify (spectralFrame s)) ∧
      ∀ i, ([false].drop i).take 8 = [true, false, true, false, true, false, true, false] →
        (∀ j < i, ([false].drop j).take 8 ≠ [true, false, true, false, true, false, true, false]) →
        [false].length < i + 216) ∧
    ∃ s : State, s.pending = .rxTurn :: [] ∧ ¬ (s.rxState = .listening ∧ s.env.time = s.rxNext) := by
  refine ⟨⟨(State.reset.withRxState .listening).withPending [.rxTurn], rfl, rfl, rfl, ?_, fun i _ _ => ?_⟩,
    State.reset.withPending [.rxTurn], rfl, by decide⟩
  · rw [classify_silence _ rfl]
    rfl
  · rw [List.length_singleton]
    omega

theorem witness_NoiselessFrameIsRecovered :
    pkt1.length = 26 ∧ (State.reset.withRxState .listening).rxState = .listening ∧
    (State.reset.withRxState .listening).rxBuf = [] := by decide

/-- Each transition: a start, a stop, a match, a reset, and none. -/
theorem witness_RxStateTransitions :
    State.reset.rxSettled ∧ (∃ t, takeEvent (.bus (.write .word 0x000 0x30)) State.reset = .next t) ∧
    (∃ t, takeEvent (.bus (.write .word 0x000 0x31)) State.reset = .next t) ∧
    (lastBitState.rxSettled ∧ ∃ t, takeEvent .rxTurn lastBitState = .next t) ∧
    (∃ t, takeEvent .reset State.reset = .next t) ∧ ∃ t, takeEvent (.time 5) State.reset = .next t :=
  ⟨.inl rfl, ⟨_, rfl⟩, ⟨_, rfl⟩, ⟨.inr (.inl rfl), _, rfl⟩, ⟨_, rfl⟩, _, rfl⟩

theorem witness_CandidateIsStable :
    State.reset.lengthsLegal ∧ (∃ t, takeEvent (.bus (.write .byte 0x180 0xFF)) State.reset = .next t) ∧
    (0x180 ≤ 0x180 ∧ 0x180 < 0x19A) ∧ 0x180 ≤ 0x199 ∧ 0x199 < 0x19A :=
  ⟨by decide, ⟨_, rfl⟩, by decide⟩

/-- The first and the last register, and STATUS, in every state. -/
theorem witness_RegisterReads (s : State) :
    ∀ p ∈ [(0x000, (0 : Word)), (0x004, s.statusWord), (0x048, BitVec.ofNat 32 s.bitLen)],
      p ∈ [(0x000, 0), (0x004, s.statusWord), (0x008, s.err), (0x00C, s.irqStatus.setWidth 32),
        (0x010, s.irqEnable.setWidth 32), (0x014, s.fields.sender), (0x018, s.fields.amount), (0x01C, s.fields.ts),
        (0x020, s.fields.nonce.setWidth 32), (0x024, s.now), (0x028, s.window), (0x02C, s.env.clock),
        (0x030, s.txBitdur), (0x034, s.txGapdur), (0x038, s.rxPeriod), (0x03C, BitVec.ofNat 32 s.bufLen),
        (0x040, BitVec.ofNat 32 s.payLen), (0x044, BitVec.ofNat 32 s.sigLen), (0x048, BitVec.ofNat 32 s.bitLen)] := by
  simp

/-- The first and the last address of each range. -/
theorem witness_BufferByteAccesses :
    (∀ a ∈ [0x100, 0x16F, 0x200, 0x23F], (0x100 ≤ a ∧ a < 0x170) ∨ (0x200 ≤ a ∧ a < 0x240)) ∧
    (∀ a ∈ [0x180, 0x199], 0x180 ≤ a ∧ a < 0x19A) := by decide

/-- The first and the last address of each range, for a byte and for an aligned word. -/
theorem witness_ReservedAddresses :
    (∀ a ∈ [0x4C, 0xFF, 0x170, 0x17F, 0x19A, 0x1FF, 0x240, 0xFFF],
      (0x4C ≤ a ∧ a < 0x100) ∨ (0x170 ≤ a ∧ a < 0x180) ∨ (0x19A ≤ a ∧ a < 0x200) ∨ (0x240 ≤ a ∧ a < 0x1000)) ∧
    (∀ a ∈ [0x4C, 0xFC, 0x170, 0x17C, 0x19C, 0x1FC, 0x240, 0xFFC], a % 4 = 0 ∧
      ((0x4C ≤ a ∧ a < 0x100) ∨ (0x170 ≤ a ∧ a < 0x180) ∨ (0x19C ≤ a ∧ a < 0x200) ∨ (0x240 ≤ a ∧ a < 0x1000))) := by
  decide

/-- A byte of a register, a half-word anywhere, a misaligned word, a word in a buffer, the word over CAND's end. -/
theorem witness_UndefinedShapesAreRefused :
    (∀ a ∈ [0x000, 0x04B], a < 0x4C) ∧ (∀ a ∈ [0x000, 0x100, 0xFFE], a < 0x1000) ∧
    (∀ a ∈ [0x001, 0x100, 0x16C, 0x180, 0x198, 0x19A, 0x200, 0x23C, 0xFFF], a < 0x1000 ∧
      (a % 4 ≠ 0 ∨ (0x100 ≤ a ∧ a < 0x170) ∨ (0x180 ≤ a ∧ a < 0x19A) ∨ (0x200 ≤ a ∧ a < 0x240))) := by decide

theorem witness_RaiseChangesOnlyErr :
    (∃ t, exec .validate State.reset = .next t ∧ t.err ≠ 0) ∧ ∃ t, exec .candLoad State.reset = .next t ∧ t.err ≠ 0 :=
  ⟨⟨_, rfl, by decide⟩, _, rfl, by decide⟩

theorem witness_ErrorTable :
    (∃ t, exec .pktEncode State.reset = .next t) ∧ (∃ t, exec .validate signedState = .next t) ∧
    (∃ t, exec .txSend (State.reset.withTxBusy true) = .next t) ∧ ∃ t, exec .rxStop State.reset = .next t := by
  refine ⟨⟨_, rfl⟩, ?_, ⟨_, rfl⟩, _, rfl⟩
  simp only [exec, execValidate]
  repeat' split
  all_goals exact ⟨_, rfl⟩

theorem witness_EventsAreSticky :
    takeEvent (.bus (.write .word 0x00C 1)) (State.reset.withIrqStatus 3) =
      .next ((State.reset.withIrqStatus 3).withIrqStatus 2) ∧
    (State.reset.withIrqStatus 3).irqStatus.getLsbD 0 = true ∧
    (State.reset.withIrqStatus 3).irqStatus.getLsbD 1 = true := ⟨rfl, rfl, rfl⟩

theorem witness_ResultFlagsHaveOneWriter :
    (∃ t, takeEvent (.bus (.write .word 0x000 0x12)) State.reset = .next t ∧ t.fok = true) ∧
    ∃ t, takeEvent (.bus (.write .word 0x000 0x11)) State.reset = .next t := ⟨⟨_, rfl, rfl⟩, _, rfl⟩

theorem witness_OperandRegisterWriters :
    (∃ t, exec .pktDecode ((withBytes 0x100 pkt1).withBufLen 26) = .next t) ∧ ∃ t, exec .payPack State.reset = .next t :=
  ⟨⟨_, rfl⟩, _, rfl⟩

/-- An idle machine, a send in flight and a listening decoder, the last two with a deadline in the way. -/
theorem witness_TimeStopsAtDeadlines :
    State.reset.timersAhead ∧ ((State.reset.withTxBusy true).withTxDeadline 3).timersAhead ∧
    (((State.reset.withRxState .listening).withRxNext 3).withRxP 3).timersAhead ∧
    (∃ t, takeEvent (.time 5) ((State.reset.withTxBusy true).withTxDeadline 3) = .next t ∧ t.env.time = 3) ∧
    (∃ t, takeEvent (.time 5) (((State.reset.withRxState .listening).withRxNext 3).withRxP 3) = .next t ∧
      t.env.time = 3) ∧
    ∃ t, takeEvent (.time 5) State.reset = .next t ∧ t.env.time = 5 :=
  ⟨by decide, by decide, by decide, ⟨_, rfl, rfl⟩, ⟨_, rfl, rfl⟩, _, rfl, rfl⟩

/-- Offsets at the very end of a byte sequence. -/
theorem witness_ByteOrderIsBigEndian :
    1 + 4 ≤ ([9, 1, 2, 3, 4] : List Byte).length ∧ 3 + 2 ≤ ([9, 1, 2, 3, 4] : List Byte).length ∧
    u32 [9, 1, 2, 3, 4] 1 = 0x01020304 ∧ u16 [9, 1, 2, 3, 4] 3 = 0x0304 := by decide

/-- A sender that may send, one that is busy, one with no playback device. -/
theorem witness_SendMacroReachesEncoder :
    (State.reset.txBusy = false ∧ State.reset.env.playOk = true ∧ State.reset.txBitdur ≠ 0) ∧
    (State.reset.withTxBusy true).txBusy = true ∧
    (State.reset.withEnv { State.reset.env with playOk := false }).txBusy = false ∧
    (State.reset.withEnv { State.reset.env with playOk := false }).env.playOk = false := by decide

theorem witness_AgentStepsCommute :
    (lastBitState.withTxBusy true).txCompleteEnabled = true ∧ (lastBitState.withTxBusy true).rxTickEnabled = true := by
  decide

/-- The reset state meets the invariant's hypotheses of a step that takes an event. -/
theorem witness_EveryStepKeepsInvariant :
    Memory.wf (withBytes 0x100 [1, 2]).mem ∧ Memory.inBuffers (withBytes 0x100 [1, 2]).mem ∧
    (∃ s : State, s.Inv ∧ ∃ t, step s = .next t ∧ t.err = 0x0705) := by
  refine ⟨by decide, by decide, State.reset.withFetchWord 32 0x07, ?_, _, rfl, rfl⟩
  exact { memWf := by decide, memInBuffers := by decide, lengths := by decide, settled := .inl rfl
          rxBufBound := by decide, noWindow := fun i h => absurd (preambleAt_lt h) (Nat.not_le_of_lt (Nat.lt_add_left i (by decide)))
          timers := by decide, capture := by decide, err := .inl rfl }

end Sys2Proof.Tests
end

section
/-! PROOF. The scope's statements: byte order by place value (R11, R80), and the step that runs a command written to CMD
(R15, R35, R102). -/

namespace Sys2Proof.Machine

/-! ### Byte order by place value -/

/-- The digits of a word to base 256; the most significant needs no reduction. -/
theorem be32_map_toNat (v : Word) : (be32 v).map BitVec.toNat =
    [v.toNat / 2 ^ 24, v.toNat / 2 ^ 16 % 2 ^ 8, v.toNat / 2 ^ 8 % 2 ^ 8, v.toNat % 2 ^ 8] := by
  have top : v.toNat / 2 ^ 24 % 2 ^ 8 = v.toNat / 2 ^ 24 := Nat.mod_eq_of_lt (by have := v.isLt; omega)
  simp only [be32, List.map_cons, List.map_nil, BitVec.extractLsb'_toNat, Nat.shiftRight_eq_div_pow, top,
    Nat.pow_zero, Nat.div_one]

/-- The digits of a half word to base 256; the most significant needs no reduction. -/
theorem be16_map_toNat (v : Half) : (be16 v).map BitVec.toNat = [v.toNat / 2 ^ 8, v.toNat % 2 ^ 8] := by
  have top : v.toNat / 2 ^ 8 % 2 ^ 8 = v.toNat / 2 ^ 8 := Nat.mod_eq_of_lt (by have := v.isLt; omega)
  simp only [be16, List.map_cons, List.map_nil, BitVec.extractLsb'_toNat, Nat.shiftRight_eq_div_pow, top,
    Nat.pow_zero, Nat.div_one]

/-- The weights 2^8 and 1 of two bytes read as a half word. -/
theorem u16_toNat (b : List Byte) (o : Nat) :
    (u16 b o).toNat = (byteAt b o).toNat * 2 ^ 8 + (byteAt b (o + 1)).toNat :=
  toNat_append8 (byteAt b o) (byteAt b (o + 1))

/-- The weights 2^24, 2^16, 2^8 and 1 of four bytes read as a word. -/
theorem u32_toNat (b : List Byte) (o : Nat) : (u32 b o).toNat =
    (byteAt b o).toNat * 2 ^ 24 + (byteAt b (o + 1)).toNat * 2 ^ 16 + (byteAt b (o + 2)).toNat * 2 ^ 8 +
      (byteAt b (o + 3)).toNat := by
  rw [u32_eq, toNat_append8, toNat_append8, toNat_append8]
  ring

/-- Settles O5: the digits of a number by division, and a number from its bytes by place value; where the bytes stand,
`byteAt` is the byte itself. -/
theorem byteOrderIsBigEndian : Obligations.ByteOrderIsBigEndian := by
  refine ⟨be32_map_toNat, be16_map_toNat, ?_, ?_⟩
  · intro b o h
    rw [u32_toNat, byteAt_of_lt, byteAt_of_lt, byteAt_of_lt, byteAt_of_lt]
  · intro b o h
    rw [u16_toNat, byteAt_of_lt, byteAt_of_lt]

/-! ### The step that runs a command -/

/-- A word that decodes is run as its command. -/
theorem runCommand_of_decode {w : Word} {i : Instr} (h : decode w = .ok i) (s : State) : runCommand w s = exec i s := by
  unfold runCommand
  rw [h]

/-- A host's write of a word to CMD runs that word as a command word (R35). -/
theorem busAccess_write_cmd (w : Word) (s : State) : busAccess (.write .word 0x000 w) s = runCommand w s := by
  have ht : target .word 0x000 = .reg .cmd := target_reg .cmd
  calc busAccess (.write .word 0x000 w) s = busWrite s .word 0x000 w := rfl
    _ = runCommand w s := by unfold busWrite; rw [ht]

/-- Settles O4: the step takes the write, the write runs the word, and the word is its command. -/
theorem stepRunsDecodedCommand : Obligations.StepRunsDecodedCommand := by
  intro s rest w i hp hd
  calc step s = busAccess (.write .word 0x000 w) (s.withPending rest) := step_cons hp
    _ = runCommand w (s.withPending rest) := busAccess_write_cmd w _
    _ = exec i (s.withPending rest) := runCommand_of_decode hd _

end Sys2Proof.Machine
end

section
/-! PROOF. The state's statements: the invariant every step keeps (R34, R36, R46, R52, R84, R164, R171, R176), which events
write RX_STATE, CAND, the event bits and the result flags (R30, R31, R37, R50, R175), the passing of TIME (R55, R84), the
refusals of a zero duration (U6), STATUS and the interrupt line (R28, R216), and the values after reset (R57). -/

namespace Sys2Proof.Machine

/-! ### What a command leaves unchanged -/

/-- The effect of TX_SEND as one update (R140). -/
theorem commandEffect_txSend (s : State) :
    commandEffect .txSend s = { s with
      txBusy := true
      txDeadline := s.env.time + totalScheduled s.bitLen s.txBitdur.toNat s.txGapdur.toNat + Config.marginUs
      out := { s.out with tones :=
        s.out.tones ++ [scheduleOf s.env.time s.txBitdur.toNat s.txGapdur.toNat (s.bits s.bitLen)] } } := by
  simp only [commandEffect, State.emitTone_eq, State.withOut, State.withTxDeadline, State.withTxBusy]

/-- The effect of RX_START as one update (R160). -/
theorem commandEffect_rxStart (s : State) :
    commandEffect .rxStart s = { s with
      rxBuf := [], rxP := s.rxPeriod, rxNext := s.env.time + s.rxPeriod.toNat, rxState := .listening
      out := { s.out with captures := s.out.captures ++ [.request] } } := by
  simp only [commandEffect, State.signalCapture_eq, State.withRxBuf, State.withRxP, State.withRxNext, State.withRxState,
    State.withOut]

/-- The effect of RX_STOP as one update (R163). -/
theorem commandEffect_rxStop (s : State) :
    commandEffect .rxStop s = { s with
      rxBuf := [], rxState := .stopped
      out := { s.out with captures := s.out.captures ++ if s.captureHeld then [.release] else [] } } := by
  simp only [commandEffect, State.releaseCapture_eq, State.withRxBuf, State.withRxState, State.withOut]

/-- A quantity that ERR and BUF_LEN do not enter is kept by a command whose effect keeps it. -/
theorem exec_keeps_of_effect {α : Type} (f : State → α) {i : Instr} {s t : State}
    (hErr : ∀ u w, f (State.withErr u w) = f u) (hLen : ∀ u n, f (State.withBufLen u n) = f u)
    (hEff : f (commandEffect i s) = f s) (h : exec i s = .next t) : f t = f s := by
  rcases exec_next_cases h with ⟨-, rfl⟩ | ⟨k, -, rfl⟩
  · rw [State.succeed_eq, hErr, hEff]
  · rw [State.raiseErr_eq, hErr, beforeRaise]
    split
    · exact hLen s 0
    · rfl

/-- The registers and inputs that no command writes (R22, R25, R37, R39 to R41, R55). -/
structure CommandFrame (s t : State) : Prop where
  now : t.now = s.now
  window : t.window = s.window
  txBitdur : t.txBitdur = s.txBitdur
  txGapdur : t.txGapdur = s.txGapdur
  rxPeriod : t.rxPeriod = s.rxPeriod
  irqStatus : t.irqStatus = s.irqStatus
  env : t.env = s.env

theorem commandEffect_frame (i : Instr) (s : State) : CommandFrame s (commandEffect i s) := by
  cases i
  case rxStop => rw [commandEffect_rxStop]; exact ⟨rfl, rfl, rfl, rfl, rfl, rfl, rfl⟩
  all_goals constructor <;> simp [commandEffect]

theorem exec_frame {i : Instr} {s t : State} (h : exec i s = .next t) : CommandFrame s t := by
  rcases exec_next_cases h with ⟨-, rfl⟩ | ⟨k, -, rfl⟩
  · have hf := commandEffect_frame i s
    exact ⟨hf.now, hf.window, hf.txBitdur, hf.txGapdur, hf.rxPeriod, hf.irqStatus, hf.env⟩
  · rw [beforeRaise]
    split <;> exact ⟨rfl, rfl, rfl, rfl, rfl, rfl, rfl⟩

/-- VOK is the result of AUTH_VERIFY alone (R30). -/
theorem commandEffect_vok {i : Instr} (hi : i ≠ .authVerify) (s : State) : (commandEffect i s).vok = s.vok := by
  cases i
  case authVerify => exact absurd rfl hi
  case rxStop => simp [commandEffect_rxStop]
  all_goals simp [commandEffect]

/-- FOK is the result of AUTH_FRESH alone (R31). -/
theorem commandEffect_fok {i : Instr} (hi : i ≠ .authFresh) (s : State) : (commandEffect i s).fok = s.fok := by
  cases i
  case authFresh => exact absurd rfl hi
  case rxStop => simp [commandEffect_rxStop]
  all_goals simp [commandEffect]

/-- Only PKT_DECODE and VALIDATE write the field registers (R25). -/
theorem commandEffect_fields {i : Instr} (hd : i ≠ .pktDecode) (hv : i ≠ .validate) (s : State) :
    (commandEffect i s).fields = s.fields := by
  cases i
  case pktDecode => exact absurd rfl hd
  case validate => exact absurd rfl hv
  case rxStop => simp [commandEffect_rxStop]
  all_goals simp [commandEffect]

/-- Only RX_START and RX_STOP move the decoder (R160, R163). -/
theorem commandEffect_rxState {i : Instr} (h1 : i ≠ .rxStart) (h2 : i ≠ .rxStop) (s : State) :
    (commandEffect i s).rxState = s.rxState := by
  cases i
  case rxStart => exact absurd rfl h1
  case rxStop => exact absurd rfl h2
  all_goals simp [commandEffect]

/-- What a command stores, its lengths being legal: nothing, bytes inside BUF, PAY or SIG, or bits inside BITS. -/
theorem commandEffect_mem_cases {s : State} (hl : s.lengthsLegal) (i : Instr) :
    (commandEffect i s).mem = s.mem ∨
    (∃ base vs, 0x100 ≤ base ∧ base + vs.length ≤ 0x170 ∧ (commandEffect i s).mem = storeBytes s.mem base vs) ∨
    (∃ bs, bs.length ≤ 512 ∧ (commandEffect i s).mem = storeBits s.mem 0 bs) := by
  obtain ⟨hbuf, -, -, hbits⟩ : s.bufLen ≤ 64 ∧ s.payLen ≤ 32 ∧ s.sigLen ≤ 16 ∧ s.bitLen ≤ 512 := hl
  cases i
  case payPack => exact .inr (.inl ⟨payBase, payloadOf s.fields, by decide, by simp, by simp [commandEffect]⟩)
  case pktEncode =>
    have hlen : (packetOf s.fields (s.sigBytes 8)).length = 26 := packetOf_length _ _ (loadBytes_length _ _ _)
    exact .inr (.inl ⟨bufBase, _, by decide, by rw [hlen]; decide, by simp [commandEffect]⟩)
  case pktDecode =>
    have hlen : (signatureOf (s.bufBytes 22)).length = 8 := by simp [signatureOf, State.bufBytes]
    exact .inr (.inl ⟨sigBase, _, by decide, by rw [hlen]; decide, by simp [commandEffect]⟩)
  case bitsFromBytes =>
    have hlen : (bitsFromBytes (s.bufBytes s.bufLen)).length = 8 * s.bufLen := by simp [State.bufBytes]
    exact .inr (.inr ⟨_, by rw [hlen]; omega, by simp [commandEffect]⟩)
  case bytesFromBits =>
    have hlen : (bytesFromBits (s.bits s.bitLen)).length = s.bitLen / 8 := by simp [State.bits]
    exact .inr (.inl ⟨bufBase, _, by decide, by rw [hlen]; simp; omega, by simp [commandEffect]⟩)
  case frameBuild => exact .inr (.inr ⟨frameOf (s.bufBytes 26), by simp [State.bufBytes], by simp [commandEffect]⟩)
  case authSign => exact .inr (.inl ⟨sigBase, sig8 (s.payBytes s.payLen), by decide, by simp, by simp [commandEffect]⟩)
  case candLoad => exact .inr (.inl ⟨bufBase, s.candBytes 26, by decide, by simp [State.candBytes], by simp [commandEffect]⟩)
  case rxStop => exact .inl (by simp [commandEffect_rxStop])
  all_goals exact .inl (by simp [commandEffect])

/-- No command with legal lengths stores into CAND (R50). -/
theorem exec_read_cand {i : Instr} {s t : State} (hl : s.lengthsLegal) (h : exec i s = .next t) {a : Nat}
    (h1 : 0x180 ≤ a) (h2 : a < 0x19A) : Memory.read t.mem a = Memory.read s.mem a := by
  refine exec_keeps_of_effect (fun u => Memory.read u.mem a) (fun _ _ => rfl) (fun _ _ => rfl) ?_ h
  rcases commandEffect_mem_cases hl i with hm | ⟨base, vs, -, hend, hm⟩ | ⟨bs, -, hm⟩
  · simp only [hm]
  · simp only [hm]
    exact read_storeBytes_outside _ _ _ _ (.inr (by omega))
  · simp only [hm]
    exact read_storeBits_outside _ _ _ _ (.inl (by simp; omega))

/-! ### What the other events leave unchanged -/

/-- What a host access that runs no command and writes no event bit, and an environment input other than TIME, leave as
they were. -/
structure QuietFrame (s t : State) : Prop where
  rxState : t.rxState = s.rxState
  irqStatus : t.irqStatus = s.irqStatus
  vok : t.vok = s.vok
  fok : t.fok = s.fok
  time : t.env.time = s.env.time
  cand : ∀ a, 0x180 ≤ a → a < 0x19A → Memory.read t.mem a = Memory.read s.mem a

theorem QuietFrame.refl (s : State) : QuietFrame s s := ⟨rfl, rfl, rfl, rfl, rfl, fun _ _ _ => rfl⟩

/-- A register write other than to IRQ_STATUS. -/
theorem writeReg_quiet {r : Reg} (hr : r ≠ .irqStatus) (s : State) (v : Word) : QuietFrame s (writeReg s r v) := by
  cases r
  case irqStatus => exact absurd rfl hr
  all_goals exact ⟨rfl, rfl, rfl, rfl, rfl, fun _ _ _ => rfl⟩

theorem bufferAt_cand {a : Nat} (h1 : 0x180 ≤ a) (h2 : a < 0x19A) : bufferAt a = some .cand := by
  rw [bufferAt_eq, if_neg (by omega), if_neg (by omega), if_neg (by omega), if_pos ⟨h1, h2⟩]

/-- A host write of a buffer byte is ignored by CAND and is stored as a byte by the other buffers (R50, R75). -/
theorem writeBufferByte_cases (s : State) (b : Buffer) (a : Nat) (v : Byte) :
    (b = .cand ∧ writeBufferByte s b a v = s) ∨
    (b ≠ .cand ∧ writeBufferByte s b a v = s.withMem (storeBytes s.mem a [v])) := by
  cases b
  case cand => exact .inl ⟨rfl, rfl⟩
  all_goals exact .inr ⟨by decide, rfl⟩

theorem writeBufferByte_quiet {b : Buffer} {a : Nat} (hb : bufferAt a = some b) (s : State) (v : Byte) :
    QuietFrame s (writeBufferByte s b a v) := by
  rcases writeBufferByte_cases s b a v with ⟨-, h⟩ | ⟨hne, h⟩
  · rw [h]; exact .refl s
  · rw [h]
    refine ⟨rfl, rfl, rfl, rfl, rfl, fun c h1 h2 => Memory.read_write_other _ _ ?_⟩
    rintro rfl
    rw [bufferAt_cand h1 h2] at hb
    exact hne (Option.some.inj hb).symm

/-- What an event with a result does, the events that leave the flags, CAND and TIME alone taken together. -/
theorem takeEvent_quiet_or {s t : State} {e : Event} (h : takeEvent e s = .next t) :
    QuietFrame s t ∨
    (∃ i, e = .bus (.write .word 0x000 (encode i)) ∧ exec i s = .next t) ∨
    (∃ v : Word, e = .bus (.write .word 0x00C v) ∧ t = s.withIrqStatus (s.irqStatus &&& ~~~(v.setWidth 2))) ∨
    (e = .txTurn ∧ t = txAgentTurn s) ∨ (e = .rxTurn ∧ t = rxAgentTurn s) ∨
    (∃ dt, e = .time dt ∧ t = advanceTime s dt) ∨ (e = .reset ∧ t = resetStep s) := by
  rcases takeEvent_next h with ⟨_, _, -, r, rfl⟩ | hcmd | ⟨w, -, rfl⟩ | ⟨r, v, -, rfl, rfl⟩ | ⟨a, v, b, -, hb, rfl⟩ |
    ⟨_, _, _, -, rfl⟩ | htx | hrx | htime | ⟨env, rfl, henv, -⟩ | hreset
  · exact .inl ⟨rfl, rfl, rfl, rfl, rfl, fun _ _ _ => rfl⟩
  · exact .inr (.inl hcmd)
  · exact .inl ⟨rfl, rfl, rfl, rfl, rfl, fun _ _ _ => rfl⟩
  · by_cases hr : r = .irqStatus
    · subst hr
      exact .inr (.inr (.inl ⟨v, rfl, rfl⟩))
    · exact .inl (writeReg_quiet hr s v)
  · exact .inl (writeBufferByte_quiet hb s _)
  · exact .inl (.refl _)
  · exact .inr (.inr (.inr (.inl htx)))
  · exact .inr (.inr (.inr (.inr (.inl hrx))))
  · exact .inr (.inr (.inr (.inr (.inr (.inl htime)))))
  · exact .inl ⟨rfl, rfl, rfl, rfl, henv, fun _ _ _ => rfl⟩
  · exact .inr (.inr (.inr (.inr (.inr (.inr hreset)))))

/-- A tick that completes a candidate stops the decoder, and every other tick leaves it listening and the buffers as they
were (R173, R174). -/
theorem absorbBit_cases (s : State) (b : Bool) :
    ((absorbBit s b).rxState = .stopped ∧ (absorbBit s b).candValid = true) ∨
    ((absorbBit s b).rxState = .listening ∧ (absorbBit s b).mem = s.mem) := by
  cases hf : fullMatch (appendBit s.rxBuf b) with
  | some i => exact .inl (by simp [absorbBit_of_match hf])
  | none => exact .inr (by simp [absorbBit_of_no_match hf])

/-- What an agent's turn leaves: the result flags and the environment's inputs as they were, and every event bit that was
set (R150, R168, R217). -/
structure TurnFrame (s t : State) : Prop where
  vok : t.vok = s.vok
  fok : t.fok = s.fok
  env : t.env = s.env
  events : ∃ bit, t.irqStatus = s.irqStatus ||| bit

theorem TurnFrame.refl (s : State) : TurnFrame s s := ⟨rfl, rfl, rfl, 0, BitVec.or_zero.symm⟩

/-- A tick sets at most RX_CAND (R173). -/
theorem absorbBit_frame (s : State) (b : Bool) : TurnFrame s (absorbBit s b) := by
  cases hf : fullMatch (appendBit s.rxBuf b) with
  | some i => refine ⟨?_, ?_, ?_, rxCandBit, ?_⟩ <;> simp [absorbBit_of_match hf]
  | none => refine ⟨?_, ?_, ?_, 0, ?_⟩ <;> simp [absorbBit_of_no_match hf]

theorem rxAgentTurn_frame (s : State) : TurnFrame s (rxAgentTurn s) := by
  rcases rxAgentTurn_cases s with ⟨-, -, h⟩ | ⟨-, h⟩
  · rw [h]; exact absorbBit_frame s _
  · rw [h]; exact .refl s

/-- TxComplete sets TX_DONE (R150). -/
theorem txAgentTurn_frame (s : State) : TurnFrame s (txAgentTurn s) := by
  rcases txAgentTurn_cases s with ⟨-, -, h⟩ | ⟨-, h⟩
  · rw [h]; exact ⟨rfl, rfl, rfl, txDoneBit, rfl⟩
  · rw [h]; exact .refl s

/-- A turn of the TX agent leaves the decoder's state and the buffers as they were (R150). -/
theorem txAgentTurn_rxState_mem (s : State) :
    (txAgentTurn s).rxState = s.rxState ∧ (txAgentTurn s).mem = s.mem := by
  rcases txAgentTurn_cases s with ⟨-, -, h⟩ | ⟨-, h⟩ <;> rw [h] <;> exact ⟨rfl, rfl⟩

/-! ### Keeping the invariant -/

/-- An empty bit buffer holds no preamble. -/
theorem noFullWindow_nil : noFullWindow [] := fun i h => absurd (preambleAt_lt h) (by simp)

/-- Where the first match has no full window, no match has one: a later match would need an even longer buffer (R176). -/
theorem noFullWindow_of_fullMatch_none {buf : List Bool} (h : fullMatch buf = none) : noFullWindow buf := by
  intro i hi
  cases hf : firstMatch buf with
  | none => exact absurd hi (by simp [firstMatch_eq_none.1 hf i])
  | some k =>
    obtain ⟨hk, hleast⟩ := firstMatch_eq_some.1 hf
    have hki : k ≤ i := by
      by_contra hlt
      exact absurd hi (by simp [hleast i (by omega)])
    have hshort : buf.length < k + 216 := fullMatch_eq_none.1 h k hk hleast
    show buf.length < i + 216
    omega

/-- A store inside BUF, PAY, SIG or CAND keeps the memory canonical and inside the buffers (R71). -/
theorem storeBytes_keeps_memory {m : Memory} (hw : Memory.wf m) (hb : Memory.inBuffers m) {base : Nat} {vs : List Byte}
    (h : (0x100 ≤ base ∧ base + vs.length ≤ 0x170) ∨ (0x180 ≤ base ∧ base + vs.length ≤ 0x19A)) :
    Memory.wf (storeBytes m base vs) ∧ Memory.inBuffers (storeBytes m base vs) :=
  ⟨Memory.wf_storeBytes hw base vs, inBuffers_storeBytes hb base vs fun j hj => bufferAt_isSome _ (by omega)⟩

theorem commandEffect_keeps_memory {s : State} (h : s.Inv) (i : Instr) :
    Memory.wf (commandEffect i s).mem ∧ Memory.inBuffers (commandEffect i s).mem := by
  rcases commandEffect_mem_cases h.lengths i with hm | ⟨base, vs, hbase, hend, hm⟩ | ⟨bs, hlen, hm⟩
  · rw [hm]; exact ⟨h.memWf, h.memInBuffers⟩
  · rw [hm]; exact storeBytes_keeps_memory h.memWf h.memInBuffers (.inl ⟨hbase, hend⟩)
  · rw [hm]; exact ⟨Memory.wf_storeBits h.memWf 0 bs, inBuffers_storeBits h.memInBuffers bs hlen⟩

/-- The lengths a command writes are legal if those it reads are: 64 bytes of BUF are 512 bits of BITS (R42 to R45). -/
theorem commandEffect_lengthsLegal {s : State} (hl : s.lengthsLegal) (i : Instr) : (commandEffect i s).lengthsLegal := by
  have hlegal : s.bufLen ≤ 64 ∧ s.payLen ≤ 32 ∧ s.sigLen ≤ 16 ∧ s.bitLen ≤ 512 := hl
  unfold State.lengthsLegal
  cases i
  case rxStop => rw [commandEffect_rxStop]; exact hl
  all_goals
    simp [commandEffect]
    omega

/-- After a release if held the last signal to the capture device is no request (R164, R227). -/
theorem released_getLast? {s : State} (h : s.captureAccounted) :
    (s.out.captures ++ if s.captureHeld then [CaptureSignal.release] else []).getLast? ≠ some .request := by
  by_cases hh : s.captureHeld = true
  · simp [hh]
  · rw [if_neg hh, List.append_nil]
    exact fun hlast => hh (h.2 hlast)

/-- What the invariant reads beside the memory and the lengths. -/
structure AgentFrame (s t : State) : Prop where
  rxState : t.rxState = s.rxState
  rxBuf : t.rxBuf = s.rxBuf
  rxP : t.rxP = s.rxP
  rxNext : t.rxNext = s.rxNext
  txBusy : t.txBusy = s.txBusy
  txDeadline : t.txDeadline = s.txDeadline
  env : t.env = s.env
  captures : t.out.captures = s.out.captures
  err : t.err = s.err

/-- The invariant of a state that differs in its memory and lengths and in what the invariant does not read. -/
theorem State.Inv.of_agentFrame {s t : State} (h : s.Inv) (hf : AgentFrame s t)
    (hm : Memory.wf t.mem ∧ Memory.inBuffers t.mem) (hl : t.lengthsLegal) : t.Inv where
  memWf := hm.1
  memInBuffers := hm.2
  lengths := hl
  settled := by unfold State.rxSettled; rw [hf.rxState]; exact h.settled
  rxBufBound := by unfold State.rxBufBounded; rw [hf.rxState, hf.rxBuf]; exact h.rxBufBound
  noWindow := by rw [hf.rxBuf]; exact h.noWindow
  timers := by
    unfold State.timersAhead
    rw [hf.rxState, hf.rxP, hf.rxNext, hf.txBusy, hf.txDeadline, hf.env]
    exact h.timers
  capture := by
    unfold State.captureAccounted State.captureHeld
    rw [hf.rxState, hf.captures]
    exact h.capture
  err := by unfold State.errLegal; rw [hf.err]; exact h.err

/-- The commands that neither start nor stop an agent leave both agents alone. -/
theorem commandEffect_agentFrame {i : Instr} (h1 : i ≠ .txSend) (h2 : i ≠ .rxStart) (h3 : i ≠ .rxStop) (s : State) :
    AgentFrame s (commandEffect i s) := by
  cases i
  case txSend => exact absurd rfl h1
  case rxStart => exact absurd rfl h2
  case rxStop => exact absurd rfl h3
  all_goals constructor <;> simp [commandEffect]

/-- Arming the TX agent for an instant not yet passed, with any record on the tone port (R140). -/
theorem State.Inv.armTx_inv {s : State} (h : s.Inv) {d : Nat} (hd : s.env.time ≤ d) (tones : List ToneSchedule) :
    State.Inv { s with txBusy := true, txDeadline := d, out := { s.out with tones := tones } } :=
  h.of_same_decoder rfl rfl rfl rfl rfl rfl rfl ⟨fun _ => hd, h.timers.2⟩ h.capture h.err

/-- Starting to listen with the capture resource requested, a positive period and a first tick not yet passed (R160). -/
theorem State.Inv.startRx_inv {s : State} (h : s.Inv) {p : Word} {n : Nat} {c : List CaptureSignal} (hp : p ≠ 0)
    (hn : s.env.time ≤ n) (hc : c.getLast? = some .request) :
    State.Inv { s with
      rxBuf := [], rxP := p, rxNext := n, rxState := .listening, out := { s.out with captures := c } } :=
  h.of_same_lengths ⟨h.memWf, h.memInBuffers⟩ rfl rfl rfl rfl (.inr (.inl rfl)) ⟨Nat.zero_le _, fun _ => rfl⟩
    noFullWindow_nil ⟨h.timers.1, fun _ => ⟨hn, hp⟩⟩ ⟨fun _ => hc, fun _ => rfl⟩ (.inl rfl)

/-- Stopping the decoder with the capture resource released (R163, R173). -/
theorem State.Inv.stopRx_inv {s : State} (h : s.Inv) {c : List CaptureSignal} (hc : c.getLast? ≠ some .request) :
    State.Inv { s with rxBuf := [], rxState := .stopped, out := { s.out with captures := c } } :=
  h.of_same_lengths ⟨h.memWf, h.memInBuffers⟩ rfl rfl rfl rfl (.inr (.inr rfl)) ⟨Nat.zero_le _, fun _ => rfl⟩
    noFullWindow_nil ⟨h.timers.1, fun hl => RxState.noConfusion hl⟩
    ⟨fun hh => Bool.noConfusion hh, fun hlast => absurd hlast hc⟩ (.inl rfl)

/-- A command that does not raise keeps the invariant, ERR apart. -/
theorem commandEffect_inv {i : Instr} {s : State} (h : s.Inv) (hr : commandReady i s) : (commandEffect i s).Inv := by
  by_cases htx : i = .txSend
  · subst htx
    rw [commandEffect_txSend]
    exact h.armTx_inv ((Nat.le_add_right _ _).trans (Nat.le_add_right _ _)) _
  by_cases hstart : i = .rxStart
  · subst hstart
    obtain ⟨-, -, hperiod⟩ := hr
    rw [commandEffect_rxStart]
    exact h.startRx_inv hperiod (Nat.le_add_right _ _) List.getLast?_concat
  by_cases hstop : i = .rxStop
  · subst hstop
    rw [commandEffect_rxStop]
    exact h.stopRx_inv (released_getLast? h.capture)
  exact h.of_agentFrame (commandEffect_agentFrame htx hstart hstop s) (commandEffect_keeps_memory h i)
    (commandEffect_lengthsLegal h.lengths i)

theorem beforeRaise_inv {s : State} (h : s.Inv) (i : Instr) : (beforeRaise i s).Inv := by
  unfold beforeRaise
  split
  · exact h.withLength_inv.1 0 (Nat.zero_le _)
  · exact h

/-- Every command keeps the invariant. -/
theorem exec_inv {i : Instr} {s t : State} (h : s.Inv) (he : exec i s = .next t) : t.Inv := by
  rcases exec_next_cases he with ⟨hr, rfl⟩ | ⟨k, -, rfl⟩
  · exact (commandEffect_inv h hr).withErr_inv 0 (.inl rfl)
  · exact (beforeRaise_inv h i).withErr_inv _ (.inr ⟨_, k, rfl⟩)

/-- A length register never takes an illegal value (R46). -/
theorem lengthAfterWrite_le {cap old : Nat} (h : old ≤ cap) (v : Word) : lengthAfterWrite cap old v ≤ cap := by
  unfold lengthAfterWrite
  split
  · assumption
  · exact h

/-- A register write keeps the invariant: the length registers refuse illegal values, and no other register enters it. -/
theorem writeReg_inv {s : State} (h : s.Inv) (r : Reg) (v : Word) : (writeReg s r v).Inv := by
  obtain ⟨hbuf, hpay, hsig, hbits⟩ := h.lengths
  obtain ⟨wBuf, wPay, wSig, wBits⟩ := h.withLength_inv
  cases r
  case bufLen => exact wBuf _ (lengthAfterWrite_le hbuf v)
  case payLen => exact wPay _ (lengthAfterWrite_le hpay v)
  case sigLen => exact wSig _ (lengthAfterWrite_le hsig v)
  case bitLen => exact wBits _ (lengthAfterWrite_le hbits v)
  all_goals exact h.of_same_decoder rfl rfl rfl rfl rfl rfl rfl h.timers h.capture h.err

theorem writeBufferByte_inv {s : State} (h : s.Inv) {b : Buffer} {a : Nat} (hb : bufferAt a = some b) (v : Byte) :
    (writeBufferByte s b a v).Inv := by
  rcases writeBufferByte_cases s b a v with ⟨-, hw⟩ | ⟨-, hw⟩
  · rw [hw]; exact h
  · rw [hw]
    refine h.withMem_inv _ (Memory.wf_storeBytes h.memWf a [v]) (inBuffers_storeBytes h.memInBuffers a [v] fun j hj => ?_)
    obtain rfl : j = 0 := by simpa using hj
    simp [hb]

/-- An environment input keeps the invariant as long as it does not move TIME. -/
theorem withEnv_inv {s : State} (h : s.Inv) {env : Env} (he : env.time = s.env.time) : (s.withEnv env).Inv := by
  have htimers : (s.withEnv env).timersAhead := by
    unfold State.timersAhead
    rw [State.withEnv_env, he]
    exact h.timers
  exact h.of_same_decoder rfl rfl rfl rfl rfl rfl rfl htimers h.capture h.err

theorem txAgentTurn_inv {s : State} (h : s.Inv) : (txAgentTurn s).Inv := by
  rcases txAgentTurn_cases s with ⟨-, -, ht⟩ | ⟨-, ht⟩
  · rw [ht]
    have htimers : ((s.withTxBusy false).withIrqStatus (s.irqStatus ||| txDoneBit)).timersAhead :=
      ⟨fun hb => Bool.noConfusion hb, h.timers.2⟩
    exact h.of_same_decoder rfl rfl rfl rfl rfl rfl rfl htimers h.capture h.err
  · rw [ht]; exact h

/-- An enabled tick keeps the invariant: a full window is emitted and the buffer emptied, and without one the next tick
comes one positive period on (R173, R174). -/
theorem absorbBit_inv {s : State} (h : s.Inv) (hl : s.rxState = .listening) (ht : s.env.time = s.rxNext) (b : Bool) :
    (absorbBit s b).Inv := by
  cases hf : fullMatch (appendBit s.rxBuf b) with
  | some i =>
    obtain ⟨-, -, hwindow⟩ := fullMatch_eq_some.1 hf
    have hmem := storeBytes_keeps_memory h.memWf h.memInBuffers (base := candBase)
      (vs := candidateAt (appendBit s.rxBuf b) i) (.inr ⟨by decide, by rw [candidateAt_length _ _ hwindow]⟩)
    rw [absorbBit_of_match hf]
    generalize storeBytes s.mem candBase (candidateAt (appendBit s.rxBuf b) i) = m at hmem ⊢
    simp only [State.withMem, State.withCandValid, State.withIrqStatus, State.withRxBuf, State.withRxState, State.withOut]
    have hfound : State.Inv { s with mem := m, candValid := true, irqStatus := s.irqStatus ||| rxCandBit } :=
      h.of_same_lengths hmem rfl rfl rfl rfl h.settled h.rxBufBound h.noWindow h.timers h.capture (.inl rfl)
    exact hfound.stopRx_inv (c := s.out.captures ++ [.release]) (by simp)
  | none =>
    have hbound : (appendBit s.rxBuf b).length ≤ 432 := by rw [appendBit_length]; exact Nat.min_le_right _ _
    have hheld : s.captureHeld = true := by rw [State.captureHeld, hl]; rfl
    have hwindow := noFullWindow_of_fullMatch_none hf
    rw [absorbBit_of_no_match hf]
    generalize appendBit s.rxBuf b = buf at hbound hwindow ⊢
    simp only [State.withRxBuf, State.withRxState, State.withRxNext]
    exact ⟨h.memWf, h.memInBuffers, h.lengths, .inr (.inl rfl), ⟨hbound, fun hs => absurd rfl hs⟩, hwindow,
      ⟨h.timers.1, fun _ => ⟨ht.le.trans (Nat.le_add_right _ _), (h.timers.2 hl).2⟩⟩,
      ⟨fun _ => h.capture.1 hheld, fun _ => rfl⟩, h.err⟩

theorem rxAgentTurn_inv {s : State} (h : s.Inv) : (rxAgentTurn s).Inv := by
  rcases rxAgentTurn_cases s with ⟨hl, ht, hr⟩ | ⟨-, hr⟩
  · rw [hr]; exact absorbBit_inv h hl ht _
  · rw [hr]; exact h

/-! ### The passing of TIME -/

/-- Where TIME stands after a time event: with no deadline passed yet, the least of the instant asked for and the deadlines
of the armed agents (R84). -/
theorem advanceTime_time {s : State} (h : s.timersAhead) (dt : Nat) :
    s.env.time ≤ (advanceTime s dt).env.time ∧ (advanceTime s dt).env.time ≤ s.env.time + dt ∧
    (s.txBusy = true → (advanceTime s dt).env.time ≤ s.txDeadline) ∧
    (s.rxState = .listening → (advanceTime s dt).env.time ≤ s.rxNext) ∧
    ((advanceTime s dt).env.time = s.env.time + dt ∨ (s.txBusy = true ∧ (advanceTime s dt).env.time = s.txDeadline) ∨
      (s.rxState = .listening ∧ (advanceTime s dt).env.time = s.rxNext)) := by
  obtain ⟨htx, hrx⟩ := h
  have hrx : s.rxState = .listening → s.env.time ≤ s.rxNext := fun hl => (hrx hl).1
  simp only [advanceTime, State.withEnv_env, rxLimit, txLimit]
  by_cases hb : s.txBusy = true <;> by_cases hl : s.rxState = .listening
  all_goals simp [hb, hl] at htx hrx ⊢ <;> omega

theorem advanceTime_inv {s : State} (h : s.Inv) (dt : Nat) : (advanceTime s dt).Inv := by
  obtain ⟨-, -, htx, hrx, -⟩ := advanceTime_time h.timers dt
  exact h.of_same_decoder rfl rfl rfl rfl rfl rfl rfl ⟨htx, fun hl => ⟨hrx hl, (h.timers.2 hl).2⟩⟩ h.capture h.err

/-! ### Reset -/

/-- Settles O60: the reset state has no memory entry, no bit, no armed agent and no capture request. -/
theorem resetMeetsInvariant : Obligations.ResetMeetsInvariant where
  memWf := by decide
  memInBuffers := by decide
  lengths := by decide
  settled := .inl rfl
  rxBufBound := by decide
  noWindow := noFullWindow_nil
  timers := by decide
  capture := by decide
  err := .inl rfl

/-- The reset step keeps the invariant: the log of signals, which it keeps, ends in no request once the capture resource is
released (R240). -/
theorem resetStep_inv {s : State} (h : s.captureAccounted) : (resetStep s).Inv := by
  have hcapture : (resetStep s).captureAccounted := by
    refine ⟨fun hh => Bool.noConfusion hh, fun hlast => absurd ?_ (released_getLast? h)⟩
    simpa [resetStep, State.releaseCapture_eq] using hlast
  exact resetMeetsInvariant.of_same_decoder rfl rfl rfl rfl rfl rfl rfl
    ⟨fun hb => Bool.noConfusion hb, fun hl => RxState.noConfusion hl⟩ hcapture (.inl rfl)

/-! ### The statements -/

/-- Every event keeps the invariant. -/
theorem takeEvent_inv {s t : State} {e : Event} (h : s.Inv) (he : takeEvent e s = .next t) : t.Inv := by
  rcases takeEvent_next he with ⟨_, _, -, r, rfl⟩ | ⟨i, -, hi⟩ | ⟨w, -, rfl⟩ | ⟨r, v, -, -, rfl⟩ | ⟨a, v, b, -, hb, rfl⟩ |
    ⟨_, _, _, -, rfl⟩ | ⟨-, rfl⟩ | ⟨-, rfl⟩ | ⟨dt, -, rfl⟩ | ⟨env, rfl, henv, -⟩ | ⟨-, rfl⟩
  · exact h.of_same_decoder rfl rfl rfl rfl rfl rfl rfl h.timers h.capture h.err
  · exact exec_inv h hi
  · exact h.withErr_inv _ (.inr ⟨_, _, rfl⟩)
  · exact writeReg_inv h r v
  · exact writeBufferByte_inv h hb _
  · exact h
  · exact txAgentTurn_inv h
  · exact rxAgentTurn_inv h
  · exact advanceTime_inv h dt
  · exact withEnv_inv h henv
  · exact resetStep_inv h.capture

/-- Settles O59: a step takes the next event, if there is one, and every event keeps the invariant. -/
theorem everyStepKeepsInvariant : Obligations.EveryStepKeepsInvariant := by
  intro s t h hs
  cases hp : s.pending with
  | nil =>
    rw [step_nil hp] at hs
    cases hs
    exact h
  | cons e rest =>
    rw [step_cons hp] at hs
    exact takeEvent_inv (h.withPending_inv rest) hs

/-- Settles O40: of the commands only RX_START and RX_STOP move the decoder, of the other events only an RX agent's tick
and reset. -/
theorem rxStateTransitions : Obligations.RxStateTransitions := by
  intro e s t _ h
  rcases takeEvent_quiet_or h with hq | ⟨i, rfl, hi⟩ | ⟨v, -, rfl⟩ | ⟨-, rfl⟩ | ⟨rfl, rfl⟩ | ⟨dt, -, rfl⟩ | ⟨rfl, rfl⟩
  · exact .inl hq.rxState
  · by_cases hstart : i = .rxStart
    · subst hstart
      rcases exec_next_cases hi with ⟨⟨hidle, hcap, -⟩, rfl⟩ | ⟨k, -, rfl⟩
      · exact .inr (.inl ⟨hidle, rfl, hcap, rfl⟩)
      · exact .inl rfl
    · by_cases hstop : i = .rxStop
      · subst hstop
        rcases exec_next_cases hi with ⟨-, rfl⟩ | ⟨k, hk, -⟩
        · exact .inr (.inr (.inl ⟨rfl, rfl⟩))
        · exact hk.elim
      · exact .inl (exec_keeps_of_effect State.rxState (fun _ _ => rfl) (fun _ _ => rfl)
          (commandEffect_rxState hstart hstop s) hi)
  · exact .inl rfl
  · exact .inl (txAgentTurn_rxState_mem s).1
  · rcases rxAgentTurn_cases s with ⟨hl, ht, hr⟩ | ⟨-, hr⟩
    · rw [hr]
      rcases absorbBit_cases s (classify (spectralFrame s)) with ⟨hstop, hcand⟩ | ⟨hlisten, -⟩
      · exact .inr (.inr (.inr (.inl ⟨hl, hstop, rfl, ht, hcand⟩)))
      · exact .inl (hlisten.trans hl.symm)
    · exact .inl (by rw [hr])
  · exact .inl rfl
  · exact .inr (.inr (.inr (.inr ⟨rfl, rfl⟩)))

/-- Settles O41: commands and host writes store outside CAND, and a tick that leaves the decoder listening stores nothing. -/
theorem candidateIsStable : Obligations.CandidateIsStable := by
  intro e s t hl h
  rcases takeEvent_quiet_or h with hq | ⟨i, rfl, hi⟩ | ⟨v, -, rfl⟩ | ⟨-, rfl⟩ | ⟨rfl, rfl⟩ | ⟨dt, -, rfl⟩ | ⟨rfl, rfl⟩
  · exact .inl hq.cand
  · exact .inl fun a h1 h2 => exec_read_cand hl hi h1 h2
  · exact .inl fun _ _ _ => rfl
  · exact .inl fun _ _ _ => by rw [(txAgentTurn_rxState_mem s).2]
  · rcases rxAgentTurn_cases s with ⟨hlisten, -, hr⟩ | ⟨-, hr⟩
    · rw [hr]
      rcases absorbBit_cases s (classify (spectralFrame s)) with ⟨hstop, -⟩ | ⟨-, hmem⟩
      · exact .inr (.inl ⟨rfl, hlisten, hstop⟩)
      · exact .inl fun _ _ _ => by rw [hmem]
    · exact .inl fun _ _ _ => by rw [hr]
  · exact .inl fun _ _ _ => rfl
  · exact .inr (.inr rfl)

/-- An event bit that is set before an agent's turn is set after it (R217). -/
theorem TurnFrame.sticky {s t : State} (h : TurnFrame s t) {k : Nat} (hk : s.irqStatus.getLsbD k = true) :
    t.irqStatus.getLsbD k = true := by
  obtain ⟨bit, hbit⟩ := h.events
  rw [hbit, BitVec.getLsbD_or, hk, Bool.true_or]

/-- Settles O50: only the host's write to IRQ_STATUS clears an event bit, and only one it writes as 1. -/
theorem eventsAreSticky : Obligations.EventsAreSticky := by
  intro e s t k h hk
  have hlt : k < 2 := BitVec.lt_of_getLsbD hk
  rcases takeEvent_quiet_or h with hq | ⟨i, -, hi⟩ | ⟨v, rfl, rfl⟩ | ⟨-, rfl⟩ | ⟨-, rfl⟩ | ⟨dt, -, rfl⟩ | ⟨rfl, -⟩
  · rw [hq.irqStatus]; exact .inl hk
  · rw [(exec_frame hi).irqStatus]; exact .inl hk
  · by_cases hv : v.getLsbD k = true
    · exact .inr (.inl ⟨v, rfl, hv⟩)
    · exact .inl (by simp [hk, hv, hlt])
  · exact .inl ((txAgentTurn_frame s).sticky hk)
  · exact .inl ((rxAgentTurn_frame s).sticky hk)
  · exact .inl hk
  · exact .inr (.inr rfl)

/-- Settles O51: of the commands only AUTH_VERIFY writes VOK and only AUTH_FRESH writes FOK, of the other events only
reset. -/
theorem resultFlagsHaveOneWriter : Obligations.ResultFlagsHaveOneWriter := by
  intro e s t h
  rcases takeEvent_quiet_or h with hq | ⟨i, rfl, hi⟩ | ⟨v, -, rfl⟩ | ⟨-, rfl⟩ | ⟨-, rfl⟩ | ⟨dt, -, rfl⟩ | ⟨rfl, -⟩
  · exact ⟨.inl hq.vok, .inl hq.fok⟩
  · constructor
    · by_cases hv : i = .authVerify
      · subst hv; exact .inr (.inl rfl)
      · exact .inl (exec_keeps_of_effect State.vok (fun _ _ => rfl) (fun _ _ => rfl) (commandEffect_vok hv s) hi)
    · by_cases hv : i = .authFresh
      · subst hv; exact .inr (.inl rfl)
      · exact .inl (exec_keeps_of_effect State.fok (fun _ _ => rfl) (fun _ _ => rfl) (commandEffect_fok hv s) hi)
  · exact ⟨.inl rfl, .inl rfl⟩
  · exact ⟨.inl (txAgentTurn_frame s).vok, .inl (txAgentTurn_frame s).fok⟩
  · exact ⟨.inl (rxAgentTurn_frame s).vok, .inl (rxAgentTurn_frame s).fok⟩
  · exact ⟨.inl rfl, .inl rfl⟩
  · exact ⟨.inr (.inr rfl), .inr (.inr rfl)⟩

/-- Settles O52: a raise leaves the field registers, and of the effects only those of PKT_DECODE and VALIDATE write them. -/
theorem operandRegisterWriters : Obligations.OperandRegisterWriters := by
  intro i s t h
  have hf := exec_frame h
  refine ⟨?_, hf.now, hf.window, hf.txBitdur, hf.txGapdur, hf.rxPeriod⟩
  rcases exec_next_cases h with ⟨-, rfl⟩ | ⟨k, -, rfl⟩
  · by_cases hd : i = .pktDecode
    · exact .inr ⟨.inl hd, rfl⟩
    · by_cases hv : i = .validate
      · exact .inr ⟨.inr hv, rfl⟩
      · exact .inl (commandEffect_fields hd hv s)
  · rw [beforeRaise]
    split <;> exact .inl rfl

/-- Settles O55: a time event moves TIME as `advanceTime_time` says, and no other event moves it. -/
theorem timeStopsAtDeadlines : Obligations.TimeStopsAtDeadlines := by
  intro e s t ha h
  constructor
  · rcases takeEvent_quiet_or h with hq | ⟨i, -, hi⟩ | ⟨v, -, rfl⟩ | ⟨-, rfl⟩ | ⟨-, rfl⟩ | ⟨dt, -, rfl⟩ | ⟨-, rfl⟩
    · exact hq.time.ge
    · rw [(exec_frame hi).env]
    · exact le_rfl
    · rw [(txAgentTurn_frame s).env]
    · rw [(rxAgentTurn_frame s).env]
    · exact (advanceTime_time ha dt).1
    · exact le_rfl
  · rintro dt rfl
    cases h
    exact (advanceTime_time ha dt).2

/-- Settles O26: both errors are tested first, and the zero duration is refused where they do not apply. -/
theorem zeroDurationsAreRefused : Obligations.ZeroDurationsAreRefused := by
  refine fun s => ⟨fun hbusy hplay hzero => ?_, fun hidle hcap hzero => ?_⟩
  · simp [exec, execTxSend, hbusy, hplay, hzero]
  · simp [exec, execRxStart, hidle, hcap, hzero]

/-- A number with a bit field put below it. -/
theorem toNat_append_mul {n k : Nat} (x : BitVec n) (y : BitVec k) : (x ++ y).toNat = x.toNat * 2 ^ k + y.toNat := by
  rw [BitVec.toNat_append, ← Nat.shiftLeft_add_eq_or_of_lt y.isLt, Nat.shiftLeft_eq]

/-- An event register of two bits is not zero exactly when one of its bits is set. -/
theorem events_ne_zero_iff (x : BitVec 2) : x ≠ 0 ↔ x.getLsbD 0 = true ∨ x.getLsbD 1 = true := by
  revert x; decide

/-- Settles O47: STATUS is its bit fields by place value, and an enabled pending event is a common bit of IRQ_STATUS and
IRQ_ENABLE. -/
theorem statusAndInterruptLine : Obligations.StatusAndInterruptLine := by
  intro s
  constructor
  · rw [State.statusWord, BitVec.toNat_setWidth_of_le (by decide)]
    simp only [toNat_append_mul, BitVec.toNat_ofBool]
    cases s.rxState <;> simp [RxState.code] <;> ring
  · rw [State.irq, bne_iff_ne, events_ne_zero_iff]
    simp only [BitVec.getLsbD_and, Bool.and_eq_true]

/-- Settles O53: each value is the one `State.reset` gives (R57). -/
theorem resetValues : Obligations.ResetValues :=
  ⟨rfl, rfl, rfl, rfl, rfl, rfl, rfl, rfl, rfl, rfl, rfl, rfl, rfl, rfl, rfl, fun _ => rfl, rfl, rfl⟩

end Sys2Proof.Machine
end

section
/-! PROOF. The statements of the register space and of the agents' turns: word registers (R72, R73), buffer bytes (R74,
R75), reserved addresses (R76), undefined shapes (R77), TxComplete (R150), a tick that goes on listening (R174), and the
two agent steps in either order (R85, R218). -/

namespace Sys2Proof.Machine

/-! ### Two agent steps due together -/

/-- TxComplete writes what no tick reads, and both add their own event bit, so a tick may absorb its bit before or after
it (R85). -/
theorem absorbBit_txComplete (s : State) (b : Bool) : absorbBit (txComplete s) b = txComplete (absorbBit s b) := by
  have hirq : s.irqStatus ||| txDoneBit ||| rxCandBit = s.irqStatus ||| rxCandBit ||| txDoneBit := by
    rw [BitVec.or_assoc, BitVec.or_comm txDoneBit, ← BitVec.or_assoc]
  have hbuf : (txComplete s).rxBuf = s.rxBuf := rfl
  cases hf : fullMatch (appendBit s.rxBuf b) with
  | some i =>
    rw [absorbBit_of_match hf, absorbBit_of_match (s := txComplete s) (hbuf ▸ hf)]
    simp only [txComplete, State.setEvent, State.withTxBusy, State.withIrqStatus, State.withMem, State.withCandValid,
      State.withRxBuf, State.withRxState, State.withOut, hirq]
  | none =>
    rw [absorbBit_of_no_match hf, absorbBit_of_no_match (s := txComplete s) (hbuf ▸ hf)]
    simp only [txComplete, State.setEvent, State.withTxBusy, State.withIrqStatus, State.withRxBuf, State.withRxState,
      State.withRxNext]

/-- A tick leaves what enables TxComplete as it was. -/
theorem txCompleteEnabled_absorbBit (s : State) (b : Bool) :
    (absorbBit s b).txCompleteEnabled = s.txCompleteEnabled := by
  cases hf : fullMatch (appendBit s.rxBuf b) with
  | some i => simp [absorbBit_of_match hf, State.txCompleteEnabled]
  | none => simp [absorbBit_of_no_match hf, State.txCompleteEnabled]

theorem txAgentTurn_of_enabled {s : State} (h : s.txCompleteEnabled = true) : txAgentTurn s = txComplete s := if_pos h

theorem rxAgentTurn_of_enabled {s : State} (h : s.rxTickEnabled = true) : rxAgentTurn s = rxTick s := if_pos h

/-- Settles O56: each step leaves the other enabled, and a tick commutes with TxComplete. -/
theorem agentStepsCommute : Obligations.AgentStepsCommute := by
  intro s htx hrx
  have htx' : (rxTick s).txCompleteEnabled = true := (txCompleteEnabled_absorbBit s _).trans htx
  have hrx' : (txComplete s).rxTickEnabled = true := hrx
  have hcomm : rxTick (txComplete s) = txComplete (rxTick s) := absorbBit_txComplete s _
  have hfirst : runEvents [.txTurn, .rxTurn] s = .next (txComplete (rxTick s)) := by
    show Host.Outcome.next (rxAgentTurn (txAgentTurn s)) = _
    rw [txAgentTurn_of_enabled htx, rxAgentTurn_of_enabled hrx', hcomm]
  have hsecond : runEvents [.rxTurn, .txTurn] s = .next (txComplete (rxTick s)) := by
    show Host.Outcome.next (txAgentTurn (rxAgentTurn s)) = _
    rw [rxAgentTurn_of_enabled hrx, txAgentTurn_of_enabled htx']
  refine ⟨hfirst.trans hsecond.symm, _, hfirst, rfl, ?_⟩
  simp [txComplete, txDoneBit]

/-! ### One agent's turn -/

/-- Settles O29: the step gives the TX agent its turn, which is TxComplete or nothing. -/
theorem txCompleteStep : Obligations.TxCompleteStep := by
  intro s rest hp
  have hstep : step s = .next (txAgentTurn (s.withPending rest)) := step_cons hp
  rcases txAgentTurn_cases (s.withPending rest) with ⟨hbusy, htime, hturn⟩ | ⟨hoff, hturn⟩
  · rw [hstep, hturn]
    exact ⟨fun _ => rfl, fun hoff => absurd ⟨hbusy, htime⟩ hoff⟩
  · rw [hstep, hturn]
    exact ⟨fun hon => absurd hon hoff, fun _ => rfl⟩

/-- The preamble at an index, bit by bit (R6, R172). -/
theorem preambleAt_iff {buf : List Bool} {i : Nat} : preambleAt buf i = true ↔
    (buf.drop i).take 8 = [true, false, true, false, true, false, true, false] := beq_iff_eq

/-- A tick that completes no candidate keeps its bit and sets the next instant, and that is all (R174). -/
theorem absorbBit_defers {s : State} {b : Bool} {buf : List Bool} (hl : s.rxState = .listening)
    (hbuf : buf = appendBit s.rxBuf b) (hnone : fullMatch buf = none) :
    absorbBit s b = { s with rxBuf := buf, rxNext := s.rxNext + s.rxP.toNat } := by
  rw [hbuf] at hnone
  simp only [absorbBit_of_no_match hnone, State.withRxBuf, State.withRxState, State.withRxNext, hl, hbuf]

/-- No index is the first match with a full window, said of the bits themselves (R172, R174). -/
theorem fullMatch_eq_none_iff_bits {buf : List Bool} : fullMatch buf = none ↔
    ∀ i, (buf.drop i).take 8 = [true, false, true, false, true, false, true, false] →
      (∀ j < i, (buf.drop j).take 8 ≠ [true, false, true, false, true, false, true, false]) →
      buf.length < i + 216 := by
  simp only [fullMatch_eq_none, ← preambleAt_iff, ne_eq, Bool.not_eq_true]

/-- Settles O38: the step gives the RX agent its turn, which is a tick that absorbs its bit, or nothing. -/
theorem tickDefers : Obligations.TickDefers := by
  intro s rest buf hp hbuf
  have hstep : step s = .next (rxAgentTurn (s.withPending rest)) := step_cons hp
  rcases rxAgentTurn_cases (s.withPending rest) with ⟨hlisten, htime, hturn⟩ | ⟨hoff, hturn⟩
  · rw [hstep, hturn]
    refine ⟨fun _ _ hwindow => ?_, fun hoff => absurd ⟨hlisten, htime⟩ hoff⟩
    exact congrArg _ (absorbBit_defers hlisten hbuf (fullMatch_eq_none_iff_bits.2 hwindow))
  · rw [hstep, hturn]
    exact ⟨fun hl ht => absurd ⟨hl, ht⟩ hoff, fun _ => rfl⟩

/-! ### A host access by what it reaches -/

/-- A reserved address reads as zero and ignores a write (R76). -/
theorem busAccess_of_reserved {size : Size} {a : Nat} (h : target size a = .reserved) (s : State) (v : Word) :
    busAccess (.read size a) s = .next (s.logRead { size := size, addr := a, data := 0 }) ∧
    busAccess (.write size a v) s = .next s := by
  simp only [busAccess, busRead, busWrite, h, and_self]

/-- A shape with no defined result is refused, read or write (R77). -/
theorem busAccess_of_undefined {size : Size} {a : Nat} (h : target size a = .undefined) (s : State) (v : Word) :
    busAccess (.read size a) s = .refused .undefinedAccess ∧
    busAccess (.write size a v) s = .refused .undefinedAccess := by
  simp only [busAccess, busRead, busWrite, h, and_self]

/-! ### Word registers -/

/-- A word read at a register's address logs the register's value (R72). -/
theorem busAccess_read_reg (s : State) (r : Reg) :
    busAccess (.read .word r.addr) s = .next (s.logRead { size := .word, addr := r.addr, data := readReg s r }) := by
  simp only [busAccess, busRead, target_reg]

/-- A word write at the address of a register other than CMD writes the register (R73). -/
theorem busAccess_write_reg {r : Reg} (hr : r ≠ .cmd) (s : State) (v : Word) :
    busAccess (.write .word r.addr v) s = .next (writeReg s r v) := by
  cases r
  case cmd => exact absurd rfl hr
  all_goals rfl

/-- Settles O42: the nineteen addresses and values are those of the register map. -/
theorem registerReads : Obligations.RegisterReads := by
  intro s a v hav
  change (a, v) ∈ regMap.map fun r => (r.addr, readReg s r) at hav
  obtain ⟨r, -, hr⟩ := List.mem_map.1 hav
  cases hr
  exact busAccess_read_reg s r

/-- Settles O43: a write to CMD runs the word, and a write to another register is `writeReg`'s clause for it. -/
theorem registerWrites : Obligations.RegisterWrites := by
  intro s v
  have hreg : ∀ r, r ≠ Reg.cmd → busAccess (.write .word r.addr v) s = .next (writeReg s r v) :=
    fun r hr => busAccess_write_reg hr s v
  exact ⟨fun i hi => (busAccess_write_cmd v s).trans (runCommand_of_decode hi s),
    hreg .status (by decide), hreg .err (by decide), hreg .irqStatus (by decide), hreg .irqEnable (by decide),
    hreg .fSender (by decide), hreg .fAmount (by decide), hreg .fTs (by decide), hreg .fNonce (by decide),
    hreg .now (by decide), hreg .window (by decide), hreg .clk (by decide), hreg .txBitdur (by decide),
    hreg .txGapdur (by decide), hreg .rxPeriod (by decide), hreg .bufLen (by decide), hreg .payLen (by decide),
    hreg .sigLen (by decide), hreg .bitLen (by decide)⟩

/-! ### Bytes of the buffers -/

/-- A byte read in a buffer logs the byte (R74). -/
theorem busAccess_read_bufferByte {a : Nat} (h : (bufferAt a).isSome = true) (s : State) :
    busAccess (.read .byte a) s =
      .next (s.logRead { size := .byte, addr := a, data := (Memory.read s.mem a).setWidth 32 }) := by
  obtain ⟨b, hb⟩ := Option.isSome_iff_exists.1 h
  simp only [busAccess, busRead, target_eq_byteOf.2 ⟨rfl, hb⟩]

/-- A byte write in a buffer is the buffer's own write (R75). -/
theorem busAccess_write_bufferByte {a : Nat} {b : Buffer} (h : bufferAt a = some b) (s : State) (v : Byte) :
    busAccess (.write .byte a (v.setWidth 32)) s = .next (writeBufferByte s b a v) := by
  have hv : (v.setWidth 32).setWidth 8 = v := by simp
  simp only [busAccess, busWrite, target_eq_byteOf.2 ⟨rfl, h⟩, hv]

/-- Outside CAND no address lies in CAND (R71). -/
theorem bufferAt_ne_cand {a : Nat} (h : a < 0x180 ∨ 0x19A ≤ a) : bufferAt a ≠ some .cand := by
  rw [bufferAt_eq, if_neg (c := 0x180 ≤ a ∧ a < 0x19A) (by omega)]
  repeat' split
  all_goals decide

/-- Settles O44: a buffer other than CAND stores the byte, CAND ignores it, and a read logs it. -/
theorem bufferByteAccesses : Obligations.BufferByteAccesses := by
  intro s a v
  refine ⟨fun ha => ?_, fun ⟨h1, h2⟩ => busAccess_write_bufferByte (bufferAt_cand h1 h2) s v,
    fun ha => busAccess_read_bufferByte (bufferAt_isSome a ha) s⟩
  obtain ⟨b, hb⟩ := Option.isSome_iff_exists.1 (bufferAt_isSome a (by omega))
  have hcand : b ≠ .cand := by
    rintro rfl
    exact bufferAt_ne_cand (by omega) hb
  rcases writeBufferByte_cases s b a v with ⟨h, -⟩ | ⟨-, hw⟩
  · exact absurd h hcand
  · exact ⟨Memory.write s.mem a v, (busAccess_write_bufferByte hb s v).trans (congrArg _ hw),
      Memory.read_write_same _ _ _, fun c hc => Memory.read_write_other _ _ hc⟩

/-! ### Reserved addresses and undefined shapes -/

/-- The addresses outside the five buffers (R71). -/
theorem bufferAt_eq_none {a : Nat}
    (h : a < 0x100 ∨ (0x170 ≤ a ∧ a < 0x180) ∨ (0x19A ≤ a ∧ a < 0x200) ∨ 0x240 ≤ a) : bufferAt a = none := by
  rw [bufferAt_eq, if_neg (by omega), if_neg (by omega), if_neg (by omega), if_neg (by omega), if_neg (by omega)]

/-- A byte above the registers and outside the buffers is reserved (R76). -/
theorem target_byte_reserved {a : Nat} (h1 : 0x4C ≤ a) (h2 : a < 0x1000) (hb : bufferAt a = none) :
    target .byte a = .reserved := by
  simp only [target, hb]
  rw [if_neg (by omega), if_neg (by omega)]

/-- A byte of a word register is no defined access (R77). -/
theorem target_byte_register {a : Nat} (h : a < 0x4C) : target .byte a = .undefined := by
  simp only [target]
  rw [if_neg (by omega), if_pos h]

theorem target_half {a : Nat} (h : a < 0x1000) : target .half a = .undefined := by
  simp only [target]
  rw [if_neg (by omega)]

theorem target_word_misaligned {a : Nat} (h : a < 0x1000) (ha : a % 4 ≠ 0) : target .word a = .undefined := by
  simp only [target]
  rw [if_neg (by omega), if_neg ha]

/-- An aligned word above the registers is reserved where none of its four bytes lies in a buffer (R76, R77). -/
theorem target_word_above {a : Nat} (h1 : 0x4C ≤ a) (h2 : a < 0x1000) (ha : a % 4 = 0) : target .word a =
    if (bufferAt a).isNone && (bufferAt (a + 1)).isNone && (bufferAt (a + 2)).isNone && (bufferAt (a + 3)).isNone
    then .reserved else .undefined := by
  simp only [target, regMap_none (n := a / 4) (by omega)]
  rw [if_neg (by omega), if_pos ha]

theorem target_word_reserved {a : Nat} (ha : a % 4 = 0)
    (h : (0x4C ≤ a ∧ a < 0x100) ∨ (0x170 ≤ a ∧ a < 0x180) ∨ (0x19C ≤ a ∧ a < 0x200) ∨ (0x240 ≤ a ∧ a < 0x1000)) :
    target .word a = .reserved := by
  have hnone : ∀ j < 4, bufferAt (a + j) = none := fun j hj => bufferAt_eq_none (by omega)
  rw [target_word_above (by omega) (by omega) ha, show bufferAt a = none from hnone 0 (by decide),
    hnone 1 (by decide), hnone 2 (by decide), hnone 3 (by decide)]
  rfl

theorem target_word_buffer {a : Nat} (h1 : 0x4C ≤ a) (h2 : a < 0x1000) (hb : (bufferAt a).isSome = true) :
    target .word a = .undefined := by
  by_cases ha : a % 4 = 0
  · obtain ⟨b, hb⟩ := Option.isSome_iff_exists.1 hb
    rw [target_word_above h1 h2 ha, hb]
    rfl
  · exact target_word_misaligned h2 ha

/-- Settles O45: bytes and aligned words at these addresses reach no register and no buffer. -/
theorem reservedAddresses : Obligations.ReservedAddresses := by
  intro s a v
  constructor
  · intro h
    exact busAccess_of_reserved (target_byte_reserved (by omega) (by omega) (bufferAt_eq_none (by omega))) s v
  · intro ha h
    exact busAccess_of_reserved (target_word_reserved ha h) s v

/-- Settles O46: each of the three shapes reaches nothing defined, and such an access is refused. -/
theorem undefinedShapesAreRefused : Obligations.UndefinedShapesAreRefused := by
  intro s a v
  refine ⟨fun h => busAccess_of_undefined (target_byte_register h) s v,
    fun h => busAccess_of_undefined (target_half h) s v, fun h hshape => busAccess_of_undefined ?_ s v⟩
  rcases hshape with hmis | hbuf
  · exact target_word_misaligned h hmis
  · exact target_word_buffer (by omega) h (bufferAt_isSome a hbuf)

end Sys2Proof.Machine
end

section
/-! PROOF. The statements of command words and of the macros: decoding (R100 to R104), a send that no event cancels (R106,
R149), SEND up to TX_SEND (R112), and the long form of the validation (R114). -/

namespace Sys2Proof

/-! ### Decoding -/

/-- A word is determined by its two fields (R100). -/
theorem word_eq_iff_fields (w v : Word) : w = v ↔ zeroField w = zeroField v ∧ opField w = opField v := by
  constructor
  · rintro rfl
    exact ⟨rfl, rfl⟩
  · rintro ⟨hzero, hop⟩
    rw [word_fields w, word_fields v, hzero, hop]

/-- A word decodes to a command exactly when its upper bits are zero and its low byte is the command's opcode (R102). -/
theorem decode_eq_ok_iff (w : Word) (i : Instr) : decode w = .ok i ↔ zeroField w = 0 ∧ opField w = i.opcode := by
  rw [← lookupOpcode_iff]
  unfold decode
  by_cases hzero : zeroField w = 0
  · rw [if_pos hzero]
    cases lookupOpcode (opField w) opcodeTable <;> simp [hzero]
  · rw [if_neg hzero]
    exact iff_of_false (fun h => nomatch h) fun h => hzero h.1

/-- Settles O1: decoding reads the two fields of a word, and a word is determined by them. -/
theorem decodeMatchesEncode : Obligations.DecodeMatchesEncode := by
  intro w i
  rw [decode_eq_ok_iff, word_eq_iff_fields, zeroField_encode, opField_encode]

/-- A command's word decodes to the command. -/
theorem decode_encode (i : Instr) : decode (encode i) = .ok i := (decodeMatchesEncode _ i).2 rfl

/-- Settles O2: the fourteen words are the words `encode` gives. -/
theorem opcodeMapDecodes : Obligations.OpcodeMapDecodes :=
  ⟨decode_encode .payPack, decode_encode .pktEncode, decode_encode .pktDecode, decode_encode .bitsFromBytes,
    decode_encode .bytesFromBits, decode_encode .frameBuild, decode_encode .authSign, decode_encode .authVerify,
    decode_encode .authFresh, decode_encode .validate, decode_encode .txSend, decode_encode .rxStart,
    decode_encode .rxStop, decode_encode .candLoad⟩

end Sys2Proof

namespace Sys2Proof.Machine

/-- A word that is no command's word raises CmdError (R104). -/
theorem runCommand_of_illegal {w : Word} (h : ∀ i, w ≠ encode i) (s : State) :
    runCommand w s = .next (s.raiseIllegal w) := by
  unfold runCommand
  cases hd : decode w with
  | ok i => exact absurd ((decodeMatchesEncode w i).1 hd) (h i)
  | error e => rfl

/-- Settles O3: a word outside the list is the word of no command, so its write to CMD raises CmdError. -/
theorem illegalWordRaisesCmdError : Obligations.IllegalWordRaisesCmdError := by
  intro w s hw
  have hillegal : ∀ i, w ≠ encode i := by
    rintro i rfl
    revert hw
    cases i <;> decide
  rw [busAccess_write_cmd, runCommand_of_illegal hillegal, State.raiseIllegal_eq, errWord_cmdError]
  rfl

/-! ### A send in flight -/

/-- What a send in flight consists of: TX_BUSY, TX_DEADLINE and the records on the tone port (R32, R53, R147). -/
structure SendFrame (s t : State) : Prop where
  txBusy : t.txBusy = s.txBusy
  txDeadline : t.txDeadline = s.txDeadline
  tones : t.out.tones = s.out.tones

theorem SendFrame.refl (s : State) : SendFrame s s := ⟨rfl, rfl, rfl⟩

/-- Of the commands only TX_SEND starts a send (R140). -/
theorem commandEffect_sendFrame {i : Instr} (hi : i ≠ .txSend) (s : State) : SendFrame s (commandEffect i s) := by
  cases i
  case txSend => exact absurd rfl hi
  case rxStop => rw [commandEffect_rxStop]; exact ⟨rfl, rfl, rfl⟩
  all_goals constructor <;> simp [commandEffect]

/-- While a send is in flight no command touches it: TX_SEND raises (R106, R141). -/
theorem exec_sendFrame {i : Instr} {s t : State} (hbusy : s.txBusy = true) (h : exec i s = .next t) : SendFrame s t := by
  rcases exec_next_cases h with ⟨hready, rfl⟩ | ⟨k, -, rfl⟩
  · have hi : i ≠ .txSend := by
      rintro rfl
      obtain ⟨hidle, -, -⟩ := hready
      exact Bool.false_ne_true (hidle.symm.trans hbusy)
    have hf := commandEffect_sendFrame hi s
    exact ⟨hf.txBusy, hf.txDeadline, hf.tones⟩
  · rw [beforeRaise]
    split <;> exact ⟨rfl, rfl, rfl⟩

theorem writeReg_sendFrame (s : State) (r : Reg) (v : Word) : SendFrame s (writeReg s r v) := by
  cases r <;> exact ⟨rfl, rfl, rfl⟩

theorem writeBufferByte_sendFrame (s : State) (b : Buffer) (a : Nat) (v : Byte) :
    SendFrame s (writeBufferByte s b a v) := by
  rcases writeBufferByte_cases s b a v with ⟨-, h⟩ | ⟨-, h⟩ <;> rw [h] <;> exact ⟨rfl, rfl, rfl⟩

theorem absorbBit_sendFrame (s : State) (b : Bool) : SendFrame s (absorbBit s b) := by
  cases hf : fullMatch (appendBit s.rxBuf b) with
  | some i => constructor <;> simp [absorbBit_of_match hf]
  | none => constructor <;> simp [absorbBit_of_no_match hf]

theorem rxAgentTurn_sendFrame (s : State) : SendFrame s (rxAgentTurn s) := by
  rcases rxAgentTurn_cases s with ⟨-, -, h⟩ | ⟨-, h⟩
  · rw [h]; exact absorbBit_sendFrame s _
  · rw [h]; exact .refl s

/-- No record is retracted from the tone port by a reset (R242). -/
theorem resetStep_tones (s : State) : (resetStep s).out.tones = s.out.tones := by
  simp [resetStep, State.releaseCapture_eq]

/-- An event leaves a send in flight as it is, or it is TxComplete at the deadline, or it is a reset (R106, R149). -/
theorem takeEvent_send_cases {e : Event} {s t : State} (hbusy : s.txBusy = true) (h : takeEvent e s = .next t) :
    SendFrame s t ∨
    (e = .txTurn ∧ s.env.time = s.txDeadline ∧ t = (s.withTxBusy false).withIrqStatus (s.irqStatus ||| txDoneBit)) ∨
    (e = .reset ∧ t = resetStep s) := by
  rcases takeEvent_next h with ⟨_, _, -, r, rfl⟩ | ⟨i, -, hi⟩ | ⟨w, -, rfl⟩ | ⟨r, v, -, -, rfl⟩ | ⟨a, v, b, -, -, rfl⟩ |
    ⟨_, _, _, -, rfl⟩ | ⟨rfl, rfl⟩ | ⟨-, rfl⟩ | ⟨dt, -, rfl⟩ | ⟨env, rfl, -, -⟩ | hreset
  · exact .inl ⟨rfl, rfl, rfl⟩
  · exact .inl (exec_sendFrame hbusy hi)
  · exact .inl ⟨rfl, rfl, rfl⟩
  · exact .inl (writeReg_sendFrame s r v)
  · exact .inl (writeBufferByte_sendFrame s b a _)
  · exact .inl (.refl _)
  · rcases txAgentTurn_cases s with ⟨-, htime, hturn⟩ | ⟨-, hturn⟩
    · exact .inr (.inl ⟨rfl, htime, hturn⟩)
    · rw [hturn]; exact .inl (.refl s)
  · exact .inl (rxAgentTurn_sendFrame s)
  · exact .inl ⟨rfl, rfl, rfl⟩
  · exact .inl ⟨rfl, rfl, rfl⟩
  · exact .inr (.inr hreset)

/-- Settles O30: only TxComplete at the deadline and reset touch a send in flight, and neither is a write to CMD. -/
theorem nothingCancelsSend : Obligations.NothingCancelsSend := by
  intro e s t hbusy h
  rcases takeEvent_send_cases hbusy h with hf | ⟨rfl, htime, rfl⟩ | ⟨rfl, rfl⟩
  · have hstill : t.txBusy = true := hf.txBusy.trans hbusy
    exact ⟨fun _ _ => hstill, fun _ => hf.txDeadline, hf.tones,
      fun hdone => absurd (hstill.symm.trans hdone) (by decide)⟩
  · exact ⟨fun _ he => Event.noConfusion he, fun _ => rfl, rfl, fun _ => .inr ⟨rfl, htime⟩⟩
  · exact ⟨fun _ he => Event.noConfusion he, fun hb => Bool.noConfusion hb, resetStep_tones s, fun _ => .inl rfl⟩

/-! ### Runs of commands -/

/-- A run goes on from the next state of its first command. -/
theorem runCommands_cons {i : Instr} {s t : State} (h : exec i s = .next t) (is : List Instr) :
    runCommands (i :: is) s = runCommands is t := by
  rw [runCommands, h]

/-- A run goes on from where its first part ends. -/
theorem runCommands_append {is : List Instr} {s t : State} (h : runCommands is s = .next t) (js : List Instr) :
    runCommands (is ++ js) s = runCommands js t := by
  induction is generalizing s with
  | nil => cases h; rfl
  | cons i is ih =>
    rw [List.cons_append, runCommands]
    rw [runCommands] at h
    cases hi : exec i s with
    | next u => rw [hi] at h; exact ih h
    | fault f => rw [hi] at h; cases h
    | refused r => rw [hi] at h; cases h

theorem runCommands_singleton (i : Instr) (s : State) : runCommands [i] s = exec i s := by
  rw [runCommands]
  cases exec i s <;> rfl

/-! ### Loading what was stored -/

/-- A stored run of bytes of known length is what is loaded. -/
theorem loadBytes_storeBytes_of_length (m : Memory) (base : Nat) {vs : List Byte} {n : Nat} (h : vs.length = n) :
    loadBytes (storeBytes m base vs) base n = vs := by
  rw [← h, loadBytes_storeBytes]

/-- A stored run of bits of known length is what is loaded. -/
theorem loadBits_storeBits_of_length (m : Memory) {bs : List Bool} {n : Nat} (h : bs.length = n) :
    loadBits (storeBits m 0 bs) n = bs := by
  apply List.ext_getElem (by simp [h])
  intro j h1 h2
  rw [loadBits_getElem, readBit_storeBits, if_pos (by omega)]
  simp [h2]

/-! ### The commands of SEND, each as one update -/

/-- A command whose tests pass, given the state it writes. -/
theorem exec_next_of_effect {i : Instr} {s t : State} (h : commandReady i s) (ht : (commandEffect i s).succeed = t) :
    exec i s = .next t := by
  rw [exec_of_ready h, ht]

/-- PAY_PACK as one update (R120). -/
theorem exec_payPack (s : State) : exec .payPack s =
    .next { s with mem := storeBytes s.mem payBase (payloadOf s.fields), payLen := 14, err := 0 } :=
  exec_next_of_effect trivial (by
    simp only [commandEffect, State.succeed, State.withMem, State.withPayLen, State.withErr])

/-- AUTH_SIGN as one update (R190). -/
theorem exec_authSign {s : State} {p : List Byte} (h : s.payBytes s.payLen = p) : exec .authSign s =
    .next { s with mem := storeBytes s.mem sigBase (sig8 p), sigLen := 8, err := 0 } :=
  exec_next_of_effect trivial (by
    simp only [commandEffect, State.succeed, State.withMem, State.withSigLen, State.withErr, h])

/-- PKT_ENCODE with a signature of eight bytes as one update (R121). -/
theorem exec_pktEncode {s : State} {sig : List Byte} (hlen : s.sigLen = 8) (h : s.sigBytes 8 = sig) :
    exec .pktEncode s =
      .next { s with mem := storeBytes s.mem bufBase (packetOf s.fields sig), bufLen := 26, err := 0 } :=
  exec_next_of_effect hlen (by
    simp only [commandEffect, State.succeed, State.withMem, State.withBufLen, State.withErr, h])

/-- FRAME_BUILD with a packet of 26 bytes as one update (R125). -/
theorem exec_frameBuild {s : State} {p : List Byte} (hlen : s.bufLen = 26) (h : s.bufBytes 26 = p) :
    exec .frameBuild s = .next { s with mem := storeBits s.mem 0 (frameOf p), bitLen := 216, err := 0 } :=
  exec_next_of_effect hlen (by
    simp only [commandEffect, State.succeed, State.withMem, State.withBitLen, State.withErr, h])

/-- TX_SEND that raises nothing as one update (R140). -/
theorem exec_txSend {s : State} {bits : List Bool} (hidle : s.txBusy = false) (hplay : s.env.playOk = true)
    (hdur : s.txBitdur ≠ 0) (h : s.bits s.bitLen = bits) :
    exec .txSend s = .next { s with
      txBusy := true
      txDeadline := s.env.time + totalScheduled s.bitLen s.txBitdur.toNat s.txGapdur.toNat + Config.marginUs
      err := 0
      out := { s.out with tones :=
        s.out.tones ++ [scheduleOf s.env.time s.txBitdur.toNat s.txGapdur.toNat bits] } } := by
  refine exec_next_of_effect ⟨hidle, hplay, hdur⟩ ?_
  simp only [commandEffect_txSend, State.succeed, State.withErr, h]

/-- TX_SEND while busy raises CmdError (R141). -/
theorem exec_txSend_busy {s : State} (hbusy : s.txBusy = true) : exec .txSend s = .next { s with err := 0x2005 } :=
  exec_of_raises (i := .txSend) (.inl ⟨rfl, hbusy⟩)

/-- TX_SEND turned away by the playback device raises DeviceError (R142). -/
theorem exec_txSend_noDevice {s : State} (hidle : s.txBusy = false) (hplay : s.env.playOk = false) :
    exec .txSend s = .next { s with err := 0x2004 } :=
  exec_of_raises (i := .txSend) (.inr ⟨rfl, hidle, hplay⟩)

/-! ### SEND (R112) -/

/-- PAY_PACK, AUTH_SIGN and PKT_ENCODE put the signed packet of the field registers in BUF, from every state. -/
theorem runCommands_buildPacket (s : State) : ∃ m : Memory,
    runCommands [.payPack, .authSign, .pktEncode] s =
      .next { s with mem := m, payLen := 14, sigLen := 8, bufLen := 26, err := 0 } ∧
    loadBytes m bufBase 26 = packetOf s.fields (sig8 (payloadOf s.fields)) := by
  refine ⟨storeBytes (storeBytes (storeBytes s.mem payBase (payloadOf s.fields)) sigBase (sig8 (payloadOf s.fields)))
    bufBase (packetOf s.fields (sig8 (payloadOf s.fields))), ?_,
    loadBytes_storeBytes_of_length _ _ (packetOf_length _ _ (sig8_length _))⟩
  rw [runCommands_cons (exec_payPack s)]
  refine (runCommands_cons (exec_authSign (p := payloadOf s.fields) ?_) _).trans ?_
  · exact loadBytes_storeBytes_of_length _ _ (payloadOf_length s.fields)
  · rw [runCommands_singleton]
    exact exec_pktEncode rfl (loadBytes_storeBytes_of_length _ _ (sig8_length _))

/-- FRAME_BUILD after them leaves the packet's frame in BITS. -/
theorem runCommands_buildFrame (s : State) : ∃ m : Memory,
    runCommands [.payPack, .authSign, .pktEncode, .frameBuild] s =
      .next { s with mem := m, payLen := 14, sigLen := 8, bufLen := 26, bitLen := 216, err := 0 } ∧
    loadBits m 216 = frameOf (packetOf s.fields (sig8 (payloadOf s.fields))) := by
  obtain ⟨m, hrun, hbuf⟩ := runCommands_buildPacket s
  refine ⟨storeBits m 0 (frameOf (packetOf s.fields (sig8 (payloadOf s.fields)))),
    (runCommands_append hrun [.frameBuild]).trans ?_, loadBits_storeBits_of_length _ ?_⟩
  · rw [runCommands_singleton]
    exact exec_frameBuild rfl hbuf
  · rw [frameOf_length, packetOf_length _ _ (sig8_length _)]

/-- Settles O58: TX_SEND runs on the state the first four commands leave, and there meets one of its three outcomes. -/
theorem sendMacroReachesEncoder : Obligations.SendMacroReachesEncoder := by
  intro s
  obtain ⟨m, hrun, hbits⟩ := runCommands_buildFrame s
  have hsend := runCommands_append hrun [.txSend]
  rw [runCommands_singleton] at hsend
  refine ⟨_, hrun, rfl, rfl, rfl, rfl, rfl, rfl, rfl, hbits, fun hidle hplay hdur => ?_, fun hbusy => ?_,
    fun hidle hplay => ?_⟩
  · exact hsend.trans (exec_txSend hidle hplay hdur hbits)
  · exact hsend.trans (exec_txSend_busy hbusy)
  · exact hsend.trans (exec_txSend_noDevice hidle hplay)

/-! ### The long form of the validation (R114) -/

/-- PKT_DECODE of a packet of 26 bytes as one update (R122). -/
theorem exec_pktDecode {s : State} (hlen : s.bufLen = 26) : exec .pktDecode s =
    .next { s with fields := fieldsOf (s.bufBytes 22), sigLen := 8, err := 0
                   mem := storeBytes s.mem sigBase (signatureOf (s.bufBytes 22)) } :=
  exec_next_of_effect hlen (by
    simp only [commandEffect, State.succeed, State.withFields, State.withMem, State.withSigLen, State.withErr])

/-- AUTH_VERIFY with a signature of eight bytes as one update (R192). -/
theorem exec_authVerify {s : State} {sig p : List Byte} (hlen : s.sigLen = 8) (hsig : s.sigBytes 8 = sig)
    (hpay : s.payBytes s.payLen = p) : exec .authVerify s = .next { s with vok := sig == sig8 p, err := 0 } :=
  exec_next_of_effect trivial (by
    simp only [commandEffect, State.succeed, State.withVok, State.withErr, hlen, hsig, hpay, decide_true, Bool.true_and])

/-- AUTH_FRESH as one update (R194). -/
theorem exec_authFresh (s : State) : exec .authFresh s =
    .next { s with fok := isFresh s.fields.ts s.now s.window, err := 0 } :=
  exec_next_of_effect trivial (by simp only [commandEffect, State.succeed, State.withFok, State.withErr])

/-- PAY_PACK after PKT_DECODE packs the first 14 bytes of BUF again (R127). -/
theorem payloadOf_fieldsOf_bufBytes (s : State) : payloadOf (fieldsOf (s.bufBytes 22)) = s.bufBytes 14 := by
  rw [payloadOf_fieldsOf _ (by simp [State.bufBytes]), State.bufBytes, loadBytes_take _ _ _ _ (by decide)]
  rfl

/-- The long form leaves the packet's payload in PAY and VALIDATE's two tests in VOK and FOK. -/
theorem runCommands_longValidation {s : State} (hlen : s.bufLen = 26) : ∃ m : Memory,
    runCommands [.pktDecode, .payPack, .authVerify, .authFresh] s = .next { s with
      fields := fieldsOf (s.bufBytes 22), mem := m, payLen := 14, sigLen := 8, err := 0
      vok := signatureOf (s.bufBytes 22) == sig8 (s.bufBytes 14)
      fok := isFresh (u32 (s.bufBytes 22) 8) s.now s.window } ∧
    loadBytes m payBase 14 = s.bufBytes 14 := by
  have hsigLen : (signatureOf (s.bufBytes 22)).length = 8 := by simp [signatureOf, State.bufBytes]
  have hpay (m : Memory) : loadBytes (storeBytes m payBase (payloadOf (fieldsOf (s.bufBytes 22)))) payBase 14 =
      s.bufBytes 14 := by
    rw [loadBytes_storeBytes_of_length _ _ (payloadOf_length _), payloadOf_fieldsOf_bufBytes]
  refine ⟨storeBytes (storeBytes s.mem sigBase (signatureOf (s.bufBytes 22))) payBase
    (payloadOf (fieldsOf (s.bufBytes 22))), ?_, hpay _⟩
  rw [runCommands_cons (exec_pktDecode hlen), runCommands_cons (exec_payPack _)]
  refine (runCommands_cons
    (exec_authVerify (sig := signatureOf (s.bufBytes 22)) (p := s.bufBytes 14) rfl ?_ ?_) _).trans ?_
  · exact (loadBytes_storeBytes_apart _ _ _ _ _ (.inr (by simp))).trans (loadBytes_storeBytes_of_length _ _ hsigLen)
  · exact hpay _
  · rw [runCommands_singleton]
    exact exec_authFresh _

/-- VALIDATE of a packet of 26 bytes answers by its two tests: ERR is 0 where both pass, and the word of AuthError where
the signature is wrong (R196). -/
theorem exec_validate_err {s : State} (hlen : s.bufLen = 26) : ∃ v, exec .validate s = .next v ∧
    (v.err = 0 ↔ sig8 (s.bufBytes 14) = signatureOf (s.bufBytes 22) ∧
      isFresh (u32 (s.bufBytes 22) 8) s.now s.window = true) ∧
    (v.err = 0x1302 ↔ sig8 (s.bufBytes 14) ≠ signatureOf (s.bufBytes 22)) := by
  by_cases hsig : sig8 (s.bufBytes 14) = signatureOf (s.bufBytes 22)
  · cases hfresh : isFresh (u32 (s.bufBytes 22) 8) s.now s.window with
    | false =>
      have hstale : (0x1303 : Word) ≠ 0 ∧ (0x1303 : Word) ≠ 0x1302 := by decide
      exact ⟨_, exec_of_raises (i := .validate) (.inr (.inr ⟨rfl, hlen, hsig, hfresh⟩)),
        iff_of_false hstale.1 (by simp), iff_of_false hstale.2 (not_not_intro hsig)⟩
    | true =>
      have hok : (0 : Word) ≠ 0x1302 := by decide
      exact ⟨_, exec_of_ready (i := .validate) ⟨hlen, hsig, hfresh⟩,
        iff_of_true rfl ⟨hsig, rfl⟩, iff_of_false hok (not_not_intro hsig)⟩
  · have hforged : (0x1302 : Word) ≠ 0 := by decide
    exact ⟨_, exec_of_raises (i := .validate) (.inr (.inl ⟨rfl, hlen, hsig⟩)),
      iff_of_false hforged (fun h => hsig h.1), iff_of_true rfl hsig⟩

/-- Settles O23: both forms make the same two tests on the packet in BUF. -/
theorem longValidationAgrees : Obligations.LongValidationAgrees := by
  intro s hlen
  obtain ⟨m, hrun, hpay⟩ := runCommands_longValidation hlen
  obtain ⟨v, hv, hok, hauth⟩ := exec_validate_err hlen
  refine ⟨_, v, hrun, hv, hpay, ?_, ?_⟩
  · rw [hok, beq_iff_eq, eq_comm]
  · rw [hauth, beq_eq_false_iff_ne, ne_comm]

end Sys2Proof.Machine
end

section
/-! PROOF. The Packet Codec's statements: the result, the frame and the error of each of its six commands (R120 to R125),
and its round trips: fields and packet (R127), bytes and bits (R128), packet and frame (R129). -/

namespace Sys2Proof.Machine

/-! ### Bytes and bits (R12, R128) -/

/-- Eight coefficients that are each 0 or 1 fit one byte. -/
theorem packByte_toNat (b : List Bool) (o : Nat) : (packByte b o).toNat =
    ((List.range 8).map fun i => (b.getD (o + i) false).toNat * 2 ^ (7 - i)).sum := by
  have hle : ((List.range 8).map fun i => (b.getD (o + i) false).toNat * 2 ^ (7 - i)).sum ≤
      ((List.range 8).map fun i => 2 ^ (7 - i)).sum :=
    List.sum_le_sum fun i _ => mul_le_of_le_one_left (Nat.zero_le _) (Bool.toNat_le _)
  exact Nat.mod_eq_of_lt (hle.trans_lt (by decide))

/-- Each byte is packed from its own eight bits. -/
theorem bytesFromBits_bitsFromBytes (b : List Byte) : bytesFromBits (bitsFromBytes b) = b := by
  apply List.ext_getElem (by simp)
  intro j h1 h2
  rw [← byteAt_of_lt, ← byteAt_of_lt, byteAt_bytesFromBits _ _ (by simpa using h1)]
  refine packByte_eq fun i hi => ?_
  have hq : (8 * j + i) / 8 = j := by omega
  have hr : (8 * j + i) % 8 = i := by omega
  rw [bitsFromBytes_getD _ _ (by omega), hq, hr]

/-- Packing bits and unpacking them again drops the bits beyond the last whole byte. -/
theorem bitsFromBytes_bytesFromBits (b : List Bool) :
    bitsFromBytes (bytesFromBits b) = b.take (8 * (b.length / 8)) := by
  apply List.ext_getElem (by simp; omega)
  intro n h1 h2
  have hn : n < 8 * (b.length / 8) := by simpa using h1
  have hsplit : 8 * (n / 8) + n % 8 = n := Nat.div_add_mod n 8
  calc (bitsFromBytes (bytesFromBits b))[n]
      = (bitsFromBytes (bytesFromBits b)).getD n false := (List.getD_eq_getElem _ _ h1).symm
    _ = (packByte b (8 * (n / 8))).getLsbD (7 - n % 8) := by
        rw [bitsFromBytes_getD _ _ (by simpa using hn), byteAt_bytesFromBits _ _ (by omega)]
    _ = b.getD n false := by rw [packByte_getLsbD _ _ _ (Nat.mod_lt _ (by decide)), hsplit]
    _ = (b.take (8 * (b.length / 8)))[n] := by
        rw [List.getD_eq_getElem _ _ (by omega), List.getElem_take]

/-- No bit is dropped exactly when the bits fill whole bytes. -/
theorem bitsFromBytes_bytesFromBits_eq_iff (b : List Bool) :
    bitsFromBytes (bytesFromBits b) = b ↔ b.length % 8 = 0 := by
  rw [bitsFromBytes_bytesFromBits, List.take_eq_self_iff]
  omega

/-! ### The byte view of BITS (R51) -/

/-- A byte run stored as bits from BITS[0] on stands in the byte view byte by byte. -/
theorem read_storeBits_bitsFromBytes (m : Memory) {b : List Byte} {j : Nat} (h : j < b.length) :
    Memory.read (storeBits m 0 (bitsFromBytes b)) (bitsBase + j) = byteAt b j := by
  refine read_of_bits fun i hi => ?_
  rw [← readBit_bitsFromBytes m 0 b j i h hi, Nat.zero_add]

/-- A byte run stored as bits is what the byte view loads. -/
theorem loadBytes_storeBits_bitsFromBytes (m : Memory) {b : List Byte} {n : Nat} (h : b.length = n) :
    loadBytes (storeBits m 0 (bitsFromBytes b)) bitsBase n = b := by
  apply List.ext_getElem (by simp [h])
  intro j h1 h2
  rw [loadBytes_getElem, read_storeBits_bitsFromBytes _ h2, byteAt_of_lt]

/-- A byte run stored as bits reaches no bit beyond its own. -/
theorem readBit_storeBits_bitsFromBytes_beyond (m : Memory) {b : List Byte} {k : Nat} (h : 8 * b.length ≤ k) :
    readBit (storeBits m 0 (bitsFromBytes b)) k = readBit m k := by
  rw [readBit_storeBits, if_neg (by simp; omega)]

/-- A byte run stored as bits reaches no byte beyond its own. -/
theorem read_storeBits_bitsFromBytes_outside (m : Memory) {b : List Byte} {a : Nat}
    (h : a < bitsBase ∨ bitsBase + b.length ≤ a) :
    Memory.read (storeBits m 0 (bitsFromBytes b)) a = Memory.read m a :=
  read_storeBits_outside _ _ _ _ (by simp at h ⊢; omega)

/-- BITS lies above the other buffers, so storing bits leaves them as they were (R71). -/
theorem loadBytes_storeBits_below (m : Memory) (i : Nat) (bs : List Bool) {base n : Nat} (h : base + n ≤ bitsBase) :
    loadBytes (storeBits m i bs) base n = loadBytes m base n :=
  loadBytes_congr fun _ _ => read_storeBits_outside _ _ _ _ (.inl (by omega))

/-- The first bits of a loaded run. -/
theorem loadBits_take (m : Memory) {n k : Nat} (h : k ≤ n) : (loadBits m n).take k = loadBits m k := by
  apply List.ext_getElem (by simp [h])
  intro j h1 h2
  simp

theorem loadBits_getD (m : Memory) {n i : Nat} (h : i < n) : (loadBits m n).getD i false = readBit m i := by
  rw [List.getD_eq_getElem _ _ (by simpa using h), loadBits_getElem]

/-! ### The frame (R125) -/

/-- The bits of a byte run, the first byte's apart. -/
theorem bitsFromBytes_cons (v : Byte) (b : List Byte) : bitsFromBytes (v :: b) = bitsFromBytes [v] ++ bitsFromBytes b := by
  have hlen : 8 * (v :: b).length = 8 + 8 * b.length := by simp; omega
  unfold bitsFromBytes
  rw [hlen, List.range_add, List.map_append, List.map_map]
  congr 1
  refine List.map_congr_left fun n _ => ?_
  have hq : (8 + n) / 8 = n / 8 + 1 := by omega
  have hr : (8 + n) % 8 = n % 8 := by omega
  simp only [Function.comp_apply, hq, hr]
  rfl

/-- The preamble is the byte AA, so a frame is the bits of AA and the packet. -/
theorem frameOf_eq_bitsFromBytes (p : List Byte) : frameOf p = bitsFromBytes (0xAA :: p) := by
  have hpre : Config.preamble = bitsFromBytes [0xAA] := by decide
  rw [frameOf, hpre, ← bitsFromBytes_cons]

/-- Once the frame of BUF is stored in BITS, BITS[0..215] is that frame. -/
theorem loadBits_frame (m : Memory) (s : State) :
    loadBits (storeBits m 0 (frameOf (s.bufBytes 26))) 216 = frameOf (s.bufBytes 26) :=
  loadBits_storeBits_of_length _ (frameOf_length _)

/-! ### The packet (R126, R127) -/

@[simp] theorem State.bufBytes_length (s : State) (n : Nat) : (s.bufBytes n).length = n := loadBytes_length _ _ _

/-- The signature of a packet ends at byte 21. -/
theorem signatureOf_take_22 (p : List Byte) : signatureOf (p.take 22) = signatureOf p := by
  simp [signatureOf, List.drop_take]

theorem fieldsOf_packetOf (f : Fields) (sig : List Byte) : fieldsOf (packetOf f sig) = f := by
  rw [packetOf, List.append_assoc, fieldsOf_payloadOf]

theorem signatureOf_packetOf (f : Fields) {sig : List Byte} (h : sig.length = 8) : signatureOf (packetOf f sig) = sig := by
  rw [signatureOf, packetOf, List.append_assoc, List.drop_left' (payloadOf_length f), List.take_left' h]

/-- The packet of the fields and the signature read from 22 bytes is those bytes and the pad. -/
theorem packetOf_fieldsOf_signatureOf {b : List Byte} (h : b.length = 22) :
    packetOf (fieldsOf b) (signatureOf b) = b ++ [0, 0, 0, 0] := by
  have hsig : signatureOf b = b.drop 14 := List.take_of_length_le (by simp [h])
  rw [packetOf, payloadOf_fieldsOf b (by omega), hsig, List.take_append_drop]

/-! ### The commands' results (R120 to R125) -/

/-- BITS_FROM_BYTES as one update (R123). -/
theorem exec_bitsFromBytes (s : State) : exec .bitsFromBytes s =
    .next { s with mem := storeBits s.mem 0 (bitsFromBytes (s.bufBytes s.bufLen)), bitLen := 8 * s.bufLen, err := 0 } :=
  exec_next_of_effect trivial (by
    simp only [commandEffect, State.succeed, State.withMem, State.withBitLen, State.withErr])

/-- BYTES_FROM_BITS as one update (R124). -/
theorem exec_bytesFromBits {s : State} {bits : List Bool} (h : s.bits s.bitLen = bits) : exec .bytesFromBits s =
    .next { s with mem := storeBytes s.mem bufBase (bytesFromBits bits), bufLen := s.bitLen / 8, err := 0 } :=
  exec_next_of_effect trivial (by
    simp only [commandEffect, State.succeed, State.withMem, State.withBufLen, State.withErr, h])

/-- Settles O6: PAY_PACK stores the payload of the fields in PAY. -/
theorem payPackResult : Obligations.PayPackResult :=
  ⟨decode_encode .payPack, fun s => ⟨_, exec_payPack s, loadBytes_storeBytes_of_length _ _ (payloadOf_length _),
    fun _ ha => read_storeBytes_outside _ _ _ _ ha⟩⟩

/-- Settles O7: PKT_ENCODE stores the packet of the fields and SIG[0..7] in BUF, or raises. -/
theorem pktEncodeResult : Obligations.PktEncodeResult := by
  refine ⟨decode_encode .pktEncode, fun s => ⟨fun hlen => ?_, fun hlen =>
    exec_of_raises (i := .pktEncode) ⟨rfl, hlen⟩⟩⟩
  have hpkt : (packetOf s.fields (s.sigBytes 8)).length = 26 := packetOf_length _ _ (loadBytes_length _ _ _)
  exact ⟨_, exec_pktEncode hlen rfl, loadBytes_storeBytes_of_length _ _ hpkt,
    fun a ha => read_storeBytes_outside _ _ _ _ (by rwa [hpkt])⟩

/-- Settles O8: PKT_DECODE reads the fields of BUF and copies BUF[14..21] to SIG, or raises. -/
theorem pktDecodeResult : Obligations.PktDecodeResult := by
  refine ⟨decode_encode .pktDecode, fun s => ⟨fun hlen => ?_, fun hlen =>
    exec_of_raises (i := .pktDecode) ⟨rfl, hlen⟩⟩⟩
  have hfields : fieldsOf (s.bufBytes 22) = fieldsOf (loadBytes s.mem 0x100 26) := fieldsOf_loadBytes_22 _
  have hsig : signatureOf (s.bufBytes 22) = loadBytes s.mem 0x10E 8 := signatureOf_loadBytes_22 _
  have hexec := exec_pktDecode hlen
  rw [hfields, hsig] at hexec
  refine ⟨_, hexec, fun j hj => ?_, fun a ha => read_storeBytes_outside _ _ _ _ (by simpa using ha)⟩
  rw [read_storeBytes_inside _ _ _ _ (by simpa using hj), loadBytes_getElem]

/-- Settles O9: the bits of BUF stored in BITS are, bit by bit and byte by byte, BUF. -/
theorem bitsFromBytesResult : Obligations.BitsFromBytesResult := by
  refine ⟨decode_encode .bitsFromBytes, fun s => ?_⟩
  have hlen := State.bufBytes_length s s.bufLen
  have hbyte : ∀ j < s.bufLen, byteAt (s.bufBytes s.bufLen) j = Memory.read s.mem (0x100 + j) :=
    byteAt_loadBytes s.mem 0x100 s.bufLen
  refine ⟨_, exec_bitsFromBytes s, fun j hj i hi => ?_,
    fun k hk => readBit_storeBits_bitsFromBytes_beyond _ (by rwa [hlen]), fun j hj => ?_,
    fun a ha => read_storeBits_bitsFromBytes_outside _ (by rwa [hlen])⟩
  · rw [← hbyte j hj, ← readBit_bitsFromBytes s.mem 0 _ j i (by rwa [hlen]) hi, Nat.zero_add]
  · rw [← hbyte j hj]
    exact read_storeBits_bitsFromBytes _ (by rwa [hlen])

/-- Settles O10: BYTES_FROM_BITS stores the bytes packed from BITS in BUF, and a packed byte is the sum itself. -/
theorem bytesFromBitsResult : Obligations.BytesFromBitsResult := by
  refine ⟨decode_encode .bytesFromBits, fun s => ?_⟩
  have hbits : (s.bits s.bitLen).length = s.bitLen := loadBits_length _ _
  have hlen : (bytesFromBits (s.bits s.bitLen)).length = s.bitLen / 8 := by rw [bytesFromBits_length, hbits]
  refine ⟨_, exec_bytesFromBits rfl, fun j hj => ?_, fun a ha => read_storeBytes_outside _ _ _ _ (by rwa [hlen])⟩
  rw [read_storeBytes_inside _ _ _ _ (by rwa [hlen]), ← byteAt_of_lt, byteAt_bytesFromBits _ _ (by rwa [hbits]),
    packByte_toNat]
  refine congrArg List.sum (List.map_congr_left fun i hi => ?_)
  have hi8 : i < 8 := List.mem_range.1 hi
  rw [State.bits, loadBits_getD _ (by omega)]

/-- Settles O11: FRAME_BUILD stores the bits of AA and of BUF in BITS, or raises. -/
theorem frameBuildResult : Obligations.FrameBuildResult := by
  refine ⟨decode_encode .frameBuild, fun s => ⟨fun hlen => ?_, fun hlen =>
    exec_of_raises (i := .frameBuild) ⟨rfl, hlen⟩⟩⟩
  have hbytes : (0xAA :: s.bufBytes 26).length = 27 := rfl
  have hpre : loadBits (storeBits s.mem 0 (frameOf (s.bufBytes 26))) 8 = Config.preamble := by
    rw [← loadBits_take _ (show 8 ≤ 216 by decide), loadBits_frame]
    rfl
  refine ⟨_, exec_frameBuild hlen rfl, hpre, ?_⟩
  rw [frameOf_eq_bitsFromBytes]
  refine ⟨fun j hj i hi => ?_, fun k hk => readBit_storeBits_bitsFromBytes_beyond _ hk,
    loadBytes_storeBits_bitsFromBytes _ hbytes, fun a ha => read_storeBits_bitsFromBytes_outside _ ha⟩
  have hidx : 8 + 8 * j + i = 0 + 8 * (j + 1) + i := by omega
  rw [hidx, readBit_bitsFromBytes _ _ _ _ _ (by omega) hi, ← byteAt_loadBytes s.mem 0x100 26 j hj]
  rfl

/-! ### Round trips (R127 to R129) -/

/-- PKT_DECODE takes from a packet in BUF the fields and the signature it was made of. -/
theorem exec_pktDecode_of_packet {s : State} {f : Fields} {sig : List Byte} (hlen : s.bufLen = 26)
    (hsig : sig.length = 8) (hbuf : loadBytes s.mem bufBase 26 = packetOf f sig) : exec .pktDecode s =
      .next { s with fields := f, sigLen := 8, err := 0, mem := storeBytes s.mem sigBase sig } := by
  have hfields : fieldsOf (s.bufBytes 22) = f := by
    rw [State.bufBytes, fieldsOf_loadBytes_22, hbuf, fieldsOf_packetOf]
  have hsig22 : signatureOf (s.bufBytes 22) = sig := by
    rw [State.bufBytes, ← loadBytes_take _ _ 26 22 (by decide), hbuf, signatureOf_take_22, signatureOf_packetOf f hsig]
  rw [exec_pktDecode hlen, hfields, hsig22]

@[simp] theorem signatureOf_bufBytes_length (s : State) : (signatureOf (s.bufBytes 22)).length = 8 := by
  simp [signatureOf]

/-- The packet of what PKT_DECODE takes from BUF is BUF[0..21] with zero pad bytes. -/
theorem loadBytes_storeBytes_reencoded (m : Memory) (s : State) :
    loadBytes (storeBytes m bufBase (packetOf (fieldsOf (s.bufBytes 22)) (signatureOf (s.bufBytes 22)))) bufBase 26 =
      s.bufBytes 22 ++ [0, 0, 0, 0] := by
  rw [loadBytes_storeBytes_of_length _ _ (packetOf_length _ _ (signatureOf_bufBytes_length s)),
    packetOf_fieldsOf_signatureOf (State.bufBytes_length s 22)]

/-- Settles O12: decoding takes a packet apart into what it was made of, and packing or encoding what was decoded gives
the packet's bytes again. -/
theorem packetRoundTrip : Obligations.PacketRoundTrip := by
  constructor
  · intro s hlen
    have hsig : (s.sigBytes 8).length = 8 := loadBytes_length _ _ _
    have hbuf : loadBytes (storeBytes s.mem bufBase (packetOf s.fields (s.sigBytes 8))) bufBase 26 =
        packetOf s.fields (s.sigBytes 8) := loadBytes_storeBytes_of_length _ _ (packetOf_length _ _ hsig)
    refine ⟨_, (runCommands_cons (exec_pktEncode hlen rfl) _).trans
      ((runCommands_singleton _ _).trans (exec_pktDecode_of_packet rfl hsig hbuf)), rfl,
      loadBytes_storeBytes_of_length _ _ hsig, hlen.symm, rfl, ?_⟩
    exact (loadBytes_storeBytes_apart _ _ _ _ _ (.inl (by decide))).trans hbuf
  · intro s hlen
    have h22 := State.bufBytes_length s 22
    refine ⟨_, _, _, exec_pktDecode hlen, exec_payPack _, ?_,
      exec_pktEncode rfl (loadBytes_storeBytes_of_length _ _ (signatureOf_bufBytes_length s)), ?_, ?_⟩
    · rw [← State.bufBytes, ← payloadOf_fieldsOf_bufBytes]
      exact loadBytes_storeBytes_of_length _ _ (payloadOf_length _)
    · rw [← loadBytes_take _ _ 26 22 (by decide), loadBytes_storeBytes_reencoded, List.take_left' h22]
      rfl
    · refine (loadBytes_drop _ bufBase 26 22).symm.trans ?_
      rw [loadBytes_storeBytes_reencoded, List.drop_left' h22]

/-- Settles O13: BYTES_FROM_BITS packs the bits that BITS_FROM_BYTES stored. -/
theorem bitPackingRoundTrip : Obligations.BitPackingRoundTrip := by
  refine ⟨fun s _ => ?_, bytesFromBits_bitsFromBytes, bitsFromBytes_bytesFromBits_eq_iff, bytesFromBits_length⟩
  have hlen := State.bufBytes_length s s.bufLen
  have hbits : loadBits (storeBits s.mem 0 (bitsFromBytes (s.bufBytes s.bufLen))) (8 * s.bufLen) =
      bitsFromBytes (s.bufBytes s.bufLen) := loadBits_storeBits_of_length _ (by rw [bitsFromBytes_length, hlen])
  refine ⟨_, (runCommands_cons (exec_bitsFromBytes s) _).trans
    ((runCommands_singleton _ _).trans (exec_bytesFromBits hbits)), Nat.mul_div_cancel_left _ (by decide), ?_⟩
  rw [bytesFromBits_bitsFromBytes]
  exact loadBytes_storeBytes_of_length _ _ hlen

/-- Settles O14: behind the preamble the frame is the bits of BUF, and storing it leaves BUF as it was. -/
theorem frameRoundTrip : Obligations.FrameRoundTrip := by
  intro s hlen
  have hkept : loadBytes (storeBits s.mem 0 (frameOf (s.bufBytes 26))) 0x100 26 = loadBytes s.mem 0x100 26 :=
    loadBytes_storeBits_below _ _ _ (by decide)
  have hdrop : (frameOf (s.bufBytes 26)).drop 8 = bitsFromBytes (s.bufBytes 26) := rfl
  refine ⟨_, exec_frameBuild hlen rfl, ?_, hkept⟩
  rw [hkept, loadBits_frame, hdrop, bytesFromBits_bitsFromBytes]
  rfl

end Sys2Proof.Machine
end

section
/-! PROOF. The Modem Encoder's statements: what a TX_SEND answers (R140 to R142, R147), the spacing of a schedule's bursts
(R144, R148), and the shape of a burst's envelope (R145). -/

namespace Sys2Proof.Machine

/-! ### The bursts of a schedule (R144, R148) -/

@[simp] theorem scheduleOf_bursts_length (t0 d g : Nat) (bits : List Bool) :
    (scheduleOf t0 d g bits).bursts.length = bits.length := by simp [scheduleOf]

/-- Burst k of a schedule is the burst of bit k. -/
@[simp] theorem scheduleOf_bursts_getElem? (t0 d g : Nat) (bits : List Bool) (k : Nat) :
    (scheduleOf t0 d g bits).bursts[k]? = bits[k]?.map (burstOf t0 d g k) := by simp [scheduleOf]

/-- D + G from one start to the next. -/
theorem burstOf_start_succ (t0 d g k : Nat) (b c : Bool) :
    (burstOf t0 d g (k + 1) c).start = (burstOf t0 d g k b).start + (d + g) := by
  simp only [burstOf, Nat.succ_mul, Nat.add_assoc]

/-- Burst k ends where a schedule of k + 1 bits does. -/
theorem burstOf_end (t0 d g k : Nat) (b : Bool) :
    (burstOf t0 d g k b).start + (burstOf t0 d g k b).dur = t0 + totalScheduled (k + 1) d g := by
  simp only [burstOf, totalScheduled, Nat.succ_ne_zero, if_false, Nat.add_sub_cancel]
  ring

/-- Settles O27: a burst is that of its bit, and the starts of two such bursts differ by the distance of their places. -/
theorem scheduleSpacing : Obligations.ScheduleSpacing := by
  intro t0 d g bits hbits
  obtain ⟨n, hn⟩ : ∃ n, bits.length = n + 1 := Nat.exists_eq_add_one.2 (List.length_pos_iff.2 hbits)
  obtain ⟨x, hx⟩ : ∃ x, bits[0]? = some x := ⟨_, List.getElem?_eq_getElem (by omega)⟩
  obtain ⟨y, hy⟩ : ∃ y, bits[n]? = some y := ⟨_, List.getElem?_eq_getElem (by omega)⟩
  refine ⟨burstOf t0 d g 0 x, burstOf t0 d g n y, ?_, by simp [burstOf], ?_,
    (burstOf_end ..).trans (by rw [hn]), fun k b c hb hc => ?_⟩
  · rw [List.head?_eq_getElem?, scheduleOf_bursts_getElem?, hx, Option.map_some]
  · rw [List.getLast?_eq_getElem?, scheduleOf_bursts_length, hn, Nat.add_sub_cancel, scheduleOf_bursts_getElem?, hy,
      Option.map_some]
  · simp only [scheduleOf_bursts_getElem?, Option.map_eq_some_iff] at hb hc
    obtain ⟨v, -, rfl⟩ := hb
    obtain ⟨w, -, rfl⟩ := hc
    have hnext := burstOf_start_succ t0 d g k v w
    exact ⟨(Nat.add_assoc _ _ _).trans hnext.symm, hnext.symm⟩

/-! ### The envelope (R145) -/

/-- The two ramps take at most half of a burst. -/
theorem four_mul_rampLen_le (d : Nat) : 4 * rampLen d ≤ d := by
  unfold rampLen
  omega

/-- A burst shorter than four microseconds has no ramp. -/
theorem envelope_of_no_ramp {d : Nat} (h : rampLen d = 0) (tau : Rat) : envelope d tau = 1 := if_pos h

/-- With a ramp, the envelope is the least of the rising line, the falling line and 1. -/
theorem envelope_eq_min {d : Nat} (h : 0 < rampLen d) (tau : Rat) :
    envelope d tau = min 1 (min (tau / rampLen d) ((d - tau) / rampLen d)) := by
  have hr : (0 : Rat) < rampLen d := Nat.cast_pos.2 h
  have hd : 4 * (rampLen d : Rat) ≤ d := mod_cast four_mul_rampLen_le d
  rw [envelope, if_neg h.ne']
  split
  · next hrise =>
    have hlow : tau / rampLen d ≤ (d - tau) / rampLen d := by gcongr; linarith
    rw [min_eq_left hlow, min_eq_right ((div_le_one hr).2 hrise.le)]
  · next hrise =>
    split
    · next hflat =>
      exact (min_eq_left (le_min ((one_le_div hr).2 (by linarith)) ((one_le_div hr).2 (by linarith)))).symm
    · next hfall =>
      have hlow : (d - tau) / rampLen d ≤ tau / rampLen d := by gcongr; linarith
      rw [min_eq_right hlow, min_eq_right ((div_le_one hr).2 (by linarith))]

theorem envelope_nonneg {d : Nat} {tau : Rat} (h0 : 0 ≤ tau) (hd : tau ≤ d) : 0 ≤ envelope d tau := by
  obtain h | h := Nat.eq_zero_or_pos (rampLen d)
  · simp [envelope_of_no_ramp h]
  · rw [envelope_eq_min h]
    exact le_min zero_le_one
      (le_min (div_nonneg h0 (Nat.cast_nonneg _)) (div_nonneg (sub_nonneg.2 hd) (Nat.cast_nonneg _)))

theorem envelope_le_one (d : Nat) (tau : Rat) : envelope d tau ≤ 1 := by
  obtain h | h := Nat.eq_zero_or_pos (rampLen d)
  · exact (envelope_of_no_ramp h tau).le
  · rw [envelope_eq_min h]
    exact min_le_left _ _

/-- Turning a burst round swaps its rising and its falling line. -/
theorem envelope_symm (d : Nat) (tau : Rat) : envelope d (d - tau) = envelope d tau := by
  obtain h | h := Nat.eq_zero_or_pos (rampLen d)
  · rw [envelope_of_no_ramp h, envelope_of_no_ramp h]
  · rw [envelope_eq_min h, envelope_eq_min h, sub_sub_cancel, min_comm (tau / _)]

/-- Between the ramps the envelope is 1. -/
theorem envelope_eq_one {d : Nat} {tau : Rat} (hrise : (rampLen d : Rat) ≤ tau) (hfall : tau ≤ (d : Rat) - rampLen d) :
    envelope d tau = 1 := by
  rw [envelope, if_neg hrise.not_gt, if_pos hfall, ite_self]

/-- With a ramp, a burst begins at 0. -/
theorem envelope_zero {d : Nat} (h : 0 < rampLen d) : envelope d 0 = 0 := by
  rw [envelope, if_neg h.ne', if_pos (Nat.cast_pos.2 h), zero_div]

/-- Settles O28: the envelope is the least of 1 and two lines that a reflection of the burst swaps. -/
theorem envelopeShape : Obligations.EnvelopeShape := by
  refine fun d tau h0 hd => ⟨envelope_nonneg h0 hd, envelope_le_one d tau, envelope_symm d tau, envelope_eq_one,
    fun hramp => ⟨envelope_zero hramp, ?_⟩, four_mul_rampLen_le d, min_le_left _ _⟩
  rw [← envelope_zero hramp, ← envelope_symm d 0, sub_zero]

/-! ### The command's outcomes (R140 to R142) -/

/-- Settles O24: TX_SEND emits the schedule of BITS, whose burst k is that of BITS[k]. -/
theorem txSendResult : Obligations.TxSendResult := by
  intro s hidle hplay hdur
  have hlen : (s.bits s.bitLen).length = s.bitLen := loadBits_length _ _
  have hbit : ∀ k < s.bitLen, (s.bits s.bitLen)[k]? = some (readBit s.mem k) := fun k hk =>
    (List.getElem?_eq_getElem (by rwa [hlen])).trans (congrArg some (loadBits_getElem _ _ _ _))
  refine ⟨(scheduleOf s.env.time s.txBitdur.toNat s.txGapdur.toNat (s.bits s.bitLen)).bursts,
    exec_txSend hidle hplay hdur rfl, (scheduleOf_bursts_length ..).trans hlen, fun k hk => ?_⟩
  rw [scheduleOf_bursts_getElem?, hbit k hk]
  rfl

/-- Settles O25: TX_SEND raises CmdError while busy, and DeviceError when the playback device turns it away. -/
theorem txSendErrors : Obligations.TxSendErrors := fun _ => ⟨exec_txSend_busy, exec_txSend_noDevice⟩

end Sys2Proof.Machine
end

section
/-! PROOF. The Modem Decoder's statements: what RX_START (R160 to R162), RX_STOP (R163, R164) and CAND_LOAD (R165) answer,
the bit of a frame (R169), the bound of the bit buffer (R170, R171), a tick that emits a candidate (R173), and the recovery
of a noiseless frame (R177, R179). -/

namespace Sys2Proof.Machine

/-! ### The bit buffer (R170, R171) -/

/-- A buffer that is not full loses no bit. -/
theorem appendBit_of_lt {buf : List Bool} (h : buf.length < 432) (b : Bool) : appendBit buf b = buf ++ [b] := by
  have hfits : (buf ++ [b]).length - Config.rxCap = 0 := by simp; omega
  rw [appendBit, hfits, List.drop_zero]

/-- A full buffer loses its oldest bit. -/
theorem appendBit_of_full {buf : List Bool} (h : buf.length = 432) (b : Bool) : appendBit buf b = buf.tail ++ [b] := by
  have hover : (buf ++ [b]).length - Config.rxCap = 1 := by simp [h]
  rw [appendBit, hover, List.drop_append_of_le_length (by omega), List.drop_one]

/-- Settles O36: the buffer is full or it is not. -/
theorem bufferBoundKept : Obligations.BufferBoundKept := by
  refine fun buf b hbound => ⟨?_, (appendBit_length buf b).trans_le (Nat.min_le_right _ _)⟩
  split
  · next hfull => exact appendBit_of_full hfull b
  · next hfull => exact appendBit_of_lt (by omega) b

/-! ### Classification (R169) -/

/-- The dominant bin is the first bin that has the greatest energy. -/
theorem dominantBin_eq {frame : List Nat} {k e : Nat} (hk : frame[k]? = some e) (hmax : ∀ x ∈ frame, x ≤ e)
    (hfirst : ∀ j x, j < k → frame[j]? = some x → x < e) : dominantBin frame = k := by
  obtain ⟨hlt, he⟩ := List.getElem?_eq_some_iff.1 hk
  rw [dominantBin, maxEnergy_eq (List.mem_of_getElem? hk) hmax, List.findIdx_eq hlt]
  exact ⟨beq_iff_eq.2 he, fun j hj => beq_eq_false_iff_ne.2
    (hfirst j _ hj (List.getElem?_eq_getElem (hj.trans hlt))).ne⟩

/-- The bit is the integer test on the dominant bin. -/
theorem classifyWith_iff (fs n : Nat) (frame : List Nat) :
    classifyWith fs n frame = true ↔ dominantBin frame * fs > 19000 * n := decide_eq_true_iff

/-- Settles O35: the tests of the bit are on the dominant bin, which is bin k. -/
theorem classificationPicksLowestPeak : Obligations.ClassificationPicksLowestPeak := by
  intro fs n frame k e hk hmax hfirst
  have hbin : dominantBin frame = k := dominantBin_eq hk hmax hfirst
  refine ⟨hbin, ?_, ?_⟩
  · rw [classifyWith_iff, hbin]
  · rw [classify, classifyWith_iff, hbin]

/-! ### A tick that emits a candidate (R173) -/

/-- A tick that completes a candidate stores it in CAND, latches it and stops the decoder, and that is all. -/
theorem absorbBit_emits {s : State} {b : Bool} {buf : List Bool} {i : Nat} (hbuf : buf = appendBit s.rxBuf b)
    (hmatch : fullMatch buf = some i) : absorbBit s b = { s with
      mem := storeBytes s.mem candBase (candidateAt buf i), candValid := true, irqStatus := s.irqStatus ||| rxCandBit
      rxBuf := [], rxState := .stopped, out := { s.out with captures := s.out.captures ++ [.release] } } := by
  rw [hbuf] at hmatch
  simp only [absorbBit_of_match hmatch, State.withMem, State.withCandValid, State.withIrqStatus, State.withRxBuf,
    State.withRxState, State.withOut, hbuf]

/-- An index is the first match with a full window, said of the bits themselves (R172, R173). -/
theorem fullMatch_eq_some_iff_bits {buf : List Bool} {i : Nat} : fullMatch buf = some i ↔
    (buf.drop i).take 8 = [true, false, true, false, true, false, true, false] ∧
      (∀ j < i, (buf.drop j).take 8 ≠ [true, false, true, false, true, false, true, false]) ∧
      i + 216 ≤ buf.length := by
  simp only [fullMatch_eq_some, ← preambleAt_iff, ne_eq, Bool.not_eq_true]

/-- Settles O37: the step gives the RX agent its turn, an enabled tick, whose bit completes the candidate at i. -/
theorem tickEmitsCandidate : Obligations.TickEmitsCandidate := by
  intro s rest buf i hp hlisten htime hbuf hpre hfirst hwindow
  have hon : (s.withPending rest).rxTickEnabled = true := (rxTickEnabled_iff _).2 ⟨hlisten, htime⟩
  have hstep : step s = .next (rxAgentTurn (s.withPending rest)) := step_cons hp
  have hmatch : fullMatch buf = some i := fullMatch_eq_some_iff_bits.2 ⟨hpre, hfirst, hwindow⟩
  have hlen : (candidateAt buf i).length = 26 := candidateAt_length buf i hwindow
  refine ⟨storeBytes s.mem candBase (candidateAt buf i), ?_, loadBytes_storeBytes_of_length _ _ hlen,
    fun a ha => read_storeBytes_outside _ _ _ _ (by rwa [hlen])⟩
  rw [hstep, rxAgentTurn_of_enabled hon]
  exact congrArg _ (absorbBit_emits hbuf hmatch)

/-! ### A noiseless frame (R177, R179) -/

/-- A buffer shorter than a frame holds no full window. -/
theorem fullMatch_eq_none_of_length_lt {buf : List Bool} (h : buf.length < 216) : fullMatch buf = none :=
  fullMatch_eq_none.2 fun i _ _ => by omega

/-- While the buffer stays shorter than a frame, ticks only append their bits. -/
theorem foldl_absorbBit_of_length_lt {bs : List Bool} {s : State} (hlisten : s.rxState = .listening)
    (h : s.rxBuf.length + bs.length < 216) :
    (bs.foldl absorbBit s).rxState = .listening ∧ (bs.foldl absorbBit s).rxBuf = s.rxBuf ++ bs ∧
      (bs.foldl absorbBit s).mem = s.mem := by
  induction bs generalizing s with
  | nil => exact ⟨hlisten, (List.append_nil _).symm, rfl⟩
  | cons b bs ih =>
    rw [List.length_cons] at h
    have hbuf : s.rxBuf ++ [b] = appendBit s.rxBuf b := (appendBit_of_lt (by omega) b).symm
    have hshort : (s.rxBuf ++ [b]).length < 216 := by simp; omega
    rw [List.foldl_cons, absorbBit_defers hlisten hbuf (fullMatch_eq_none_of_length_lt hshort),
      List.append_cons s.rxBuf b bs]
    refine ih ?_ ?_
    · exact hlisten
    · simp only [List.length_append, List.length_singleton]
      omega

/-- The frame of a packet is a candidate from its first bit on: the preamble stands there. -/
theorem fullMatch_frameOf {p : List Byte} (h : p.length = 26) : fullMatch (frameOf p) = some 0 :=
  fullMatch_eq_some_iff_bits.2 ⟨rfl, fun _ hj => absurd hj (Nat.not_lt_zero _), by rw [frameOf_length, h]⟩

/-- The candidate in the frame of a packet is the packet. -/
theorem candidateAt_frameOf {p : List Byte} (h : p.length = 26) : candidateAt (frameOf p) 0 = p := by
  have hbits : ((frameOf p).drop 8).take 208 = bitsFromBytes p :=
    List.take_of_length_le (by rw [List.length_drop, frameOf_length, h])
  exact (congrArg bytesFromBits hbits).trans (bytesFromBits_bitsFromBytes p)

/-- Settles O39: before its last bit the frame is too short for a match, and with it the frame is a candidate. -/
theorem noiselessFrameIsRecovered : Obligations.NoiselessFrameIsRecovered := by
  intro s p hp hlisten hempty
  have hlen : (frameOf p).length = 216 := by rw [frameOf_length, hp]
  have hgrows : ∀ bs : List Bool, bs.length < 216 → (bs.foldl absorbBit s).rxState = .listening ∧
      (bs.foldl absorbBit s).rxBuf = bs ∧ (bs.foldl absorbBit s).mem = s.mem := fun bs hbs => by
    simpa [hempty] using foldl_absorbBit_of_length_lt hlisten (bs := bs) (by simpa [hempty] using hbs)
  refine ⟨fun n hn => hgrows _ (by simp; omega), ?_⟩
  obtain hnil | ⟨init, b, hframe⟩ := List.eq_nil_or_concat' (frameOf p)
  · simp [hnil] at hlen
  · have hinit : init.length = 215 := by simpa [hframe] using hlen
    obtain ⟨-, hbuf, -⟩ := hgrows init (by omega)
    have hlast : frameOf p = appendBit (init.foldl absorbBit s).rxBuf b := by
      rw [hbuf, appendBit_of_lt (by omega), hframe]
    have hfold : (frameOf p).foldl absorbBit s = absorbBit (init.foldl absorbBit s) b := by
      rw [hframe, List.foldl_concat]
    rw [hfold, absorbBit_emits hlast (fullMatch_frameOf hp), candidateAt_frameOf hp]
    exact ⟨rfl, rfl, rfl, loadBytes_storeBytes_of_length _ _ hp⟩

/-! ### The commands' outcomes (R160 to R165) -/

/-- Settles O31: RX_START's tests pass, and its effect is the one of R160. -/
theorem rxStartResult : Obligations.RxStartResult := fun s hidle hcap hperiod =>
  exec_next_of_effect ⟨hidle, hcap, hperiod⟩ (by simp only [commandEffect_rxStart, State.succeed, State.withErr])

/-- Settles O32: RX_START raises CmdError while listening, and DeviceError when the capture device turns it away. -/
theorem rxStartErrors : Obligations.RxStartErrors := fun _ =>
  ⟨fun hlisten => exec_of_raises (i := .rxStart) (.inl ⟨rfl, hlisten⟩),
    fun hidle hcap => exec_of_raises (i := .rxStart) (.inr ⟨rfl, hidle, hcap⟩)⟩

/-- RX_STOP as one update (R163). -/
theorem exec_rxStop (s : State) : exec .rxStop s = .next { s with
    rxBuf := [], rxState := .stopped, err := 0
    out := { s.out with captures := s.out.captures ++ if s.captureHeld then [.release] else [] } } :=
  exec_next_of_effect trivial (by simp only [commandEffect_rxStop, State.succeed, State.withErr])

/-- RX_STOP signals nothing where the capture resource is not held (R227). -/
theorem exec_rxStop_of_not_held {s : State} (h : s.captureHeld = false) :
    exec .rxStop s = .next { s with rxBuf := [], rxState := .stopped, err := 0 } := by
  simp [exec_rxStop, h]

/-- Settles O33: RX_STOP leaves the capture resource released, so a second one has nothing left to do. -/
theorem rxStopResult : Obligations.RxStopResult :=
  ⟨decode_encode .rxStop, fun s => ⟨_, exec_rxStop s, rfl, rfl, exec_rxStop_of_not_held rfl⟩⟩

/-- CAND_LOAD of an unconsumed candidate as one update (R165). -/
theorem exec_candLoad {s : State} (h : s.candValid = true) : exec .candLoad s =
    .next { s with mem := storeBytes s.mem bufBase (s.candBytes 26), bufLen := 26, candValid := false, err := 0 } :=
  exec_next_of_effect h (by
    simp only [commandEffect, State.succeed, State.withMem, State.withBufLen, State.withCandValid, State.withErr])

/-- CAND_LOAD without a candidate raises CmdError (R165). -/
theorem exec_candLoad_of_none {s : State} (h : s.candValid = false) :
    exec .candLoad s = .next { s with err := 0x3205 } :=
  exec_of_raises (i := .candLoad) ⟨rfl, h⟩

/-- Settles O34: CAND_LOAD stores CAND's 26 bytes in BUF and consumes the candidate, so a second one finds none. -/
theorem candLoadResult : Obligations.CandLoadResult := by
  refine ⟨decode_encode .candLoad, fun s => ⟨fun hvalid => ?_, exec_candLoad_of_none⟩⟩
  have hlen : (s.candBytes 26).length = 26 := loadBytes_length _ _ _
  refine ⟨_, exec_candLoad hvalid, exec_candLoad_of_none rfl, fun j hj => ?_,
    fun a ha => read_storeBytes_outside _ _ _ _ (by rwa [hlen])⟩
  exact (read_storeBytes_inside _ _ _ _ (by rwa [hlen])).trans (loadBytes_getElem _ _ _ _ _)

end Sys2Proof.Machine
end

section
/-! PROOF. The Authenticator's statements: what AUTH_SIGN (R190), AUTH_VERIFY (R192), AUTH_FRESH (R194) and VALIDATE (R196)
answer, signing then verifying (R193), the corners of the freshness check (R195), the way of a packet from the send path to
VALIDATE (R200), and replay (R199). -/

namespace Sys2Proof.Machine

/-! ### Runs of bytes and one written byte -/

/-- A byte written outside a run leaves the run as it was. -/
theorem loadBytes_write_outside (m : Memory) {base n a : Nat} (v : Byte) (h : a < base ∨ base + n ≤ a) :
    loadBytes (Memory.write m a v) base n = loadBytes m base n :=
  loadBytes_congr fun _ _ => Memory.read_write_other _ _ (by omega)

/-- A byte written inside a run, other than the one that stood there, changes the run. -/
theorem loadBytes_write_ne (m : Memory) {base n a : Nat} {v : Byte} (hlo : base ≤ a) (hhi : a < base + n)
    (hv : v ≠ Memory.read m a) : loadBytes (Memory.write m a v) base n ≠ loadBytes m base n := by
  intro heq
  have ha : base + (a - base) = a := by omega
  have hbyte := congrArg (byteAt · (a - base)) heq
  simp only [byteAt_loadBytes _ _ _ _ (show a - base < n by omega), ha, Memory.read_write_same] at hbyte
  exact hv hbyte

/-! ### Signing and verifying (R190 to R193) -/

/-- Settles O15: AUTH_SIGN stores `sig8` of the payload in SIG. -/
theorem authSignResult : Obligations.AuthSignResult :=
  ⟨decode_encode .authSign, fun s => ⟨_, exec_authSign rfl, loadBytes_storeBytes_of_length _ _ (sig8_length _),
    fun _ ha => read_storeBytes_outside _ _ _ _ (by rwa [sig8_length])⟩⟩

/-- VOK after AUTH_VERIFY (R192). -/
theorem commandEffect_authVerify_vok (s : State) : (commandEffect .authVerify s).vok = true ↔
    s.sigLen = 8 ∧ s.sigBytes 8 = sig8 (s.payBytes s.payLen) := by
  rw [commandEffect, State.withVok_vok, Bool.and_eq_true, decide_eq_true_iff, beq_iff_eq]

/-- Settles O16: VOK is the test that SIG holds eight bytes and that they are `sig8` of the payload. -/
theorem authVerifyResult : Obligations.AuthVerifyResult := by
  refine ⟨decode_encode .authVerify, fun s => ⟨_, exec_of_ready (i := .authVerify) trivial, ?_⟩⟩
  exact (commandEffect_authVerify_vok s).trans (and_congr_right fun _ => loadBytes_eq_sig8 s.mem 0x160 _)

/-- After AUTH_SIGN, SIG is `sig8` of the payload then in PAY: SIG lies above PAY, so a legal payload is still there. -/
theorem exec_authSign_signed {s : State} (hlen : s.payLen ≤ 32) : ∃ m : Memory,
    exec .authSign s = .next { s with mem := m, sigLen := 8, err := 0 } ∧
    loadBytes m 0x160 8 = sig8 (loadBytes m 0x140 s.payLen) := by
  refine ⟨_, exec_authSign rfl, ?_⟩
  rw [loadBytes_storeBytes_of_length _ _ (sig8_length _), loadBytes_storeBytes_apart _ 0x140 _ 0x160 _ (.inl (by omega))]
  rfl

/-- Settles O17: a changed byte of SIG leaves the payload's `sig8`, a changed byte of PAY leaves SIG. -/
theorem signatureVerifies : Obligations.SignatureVerifies := by
  intro s hlen
  obtain ⟨m, hsign, hsig⟩ := exec_authSign_signed hlen
  refine ⟨_, hsign, ⟨_, exec_authVerify rfl hsig rfl, beq_self_eq_true _⟩, fun j hj v hv => ?_, fun j hj v => ?_⟩
  · have hpay : loadBytes (Memory.write m (0x160 + j) v) 0x140 s.payLen = loadBytes m 0x140 s.payLen :=
      loadBytes_write_outside m v (.inr (by omega))
    have hne : loadBytes (Memory.write m (0x160 + j) v) 0x160 8 ≠ loadBytes m 0x160 8 :=
      loadBytes_write_ne m (by omega) (by omega) hv
    exact ⟨_, exec_authVerify rfl rfl hpay, beq_eq_false_iff_ne.2 (hsig ▸ hne)⟩
  · have hkept : loadBytes (Memory.write m (0x140 + j) v) 0x160 8 = sig8 (loadBytes m 0x140 s.payLen) :=
      (loadBytes_write_outside m v (.inl (by omega))).trans hsig
    exact ⟨_, exec_authVerify rfl hkept rfl, beq_iff_eq.trans eq_comm⟩

/-! ### Freshness (R194, R195) -/

/-- Settles O18: FOK is the freshness test in the integers. -/
theorem authFreshResult : Obligations.AuthFreshResult :=
  ⟨decode_encode .authFresh, fun s => ⟨_, exec_authFresh s, isFresh_iff _ _ _⟩⟩

/-- A timestamp is fresh when neither it nor NOW lies more than the window ahead of the other. -/
theorem isFresh_iff_le (ts now w : Word) : isFresh ts now w = true ↔
    now.toNat ≤ ts.toNat + w.toNat ∧ ts.toNat ≤ now.toNat + w.toNat := by
  rw [isFresh_iff, abs_le]
  omega

theorem isFresh_eq_false_iff (ts now w : Word) : isFresh ts now w = false ↔
    ts.toNat + w.toNat < now.toNat ∨ now.toNat + w.toNat < ts.toNat := by
  rw [← Bool.not_eq_true, isFresh_iff_le]
  omega

/-- Without a window only NOW itself is fresh (R195). -/
theorem isFresh_window_zero (ts now : Word) : isFresh ts now 0 = true ↔ now = ts := by
  rw [isFresh_iff_le]
  bv_omega

/-- In the greatest window every timestamp is fresh (R195). -/
theorem isFresh_window_max (ts now : Word) : isFresh ts now 0xFFFFFFFF = true := by
  rw [isFresh_iff_le]
  bv_omega

/-- Timestamp 0 at the last NOW is fresh in the greatest window only: no wrap-around (R195). -/
theorem isFresh_zero_max (w : Word) : isFresh 0 0xFFFFFFFF w = true ↔ w = 0xFFFFFFFF := by
  rw [isFresh_iff_le]
  bv_omega

/-- Settles O19: FOK is the freshness test, whose corners these are, and the test reads no clock port. -/
theorem freshnessCorners : Obligations.FreshnessCorners := by
  intro s
  refine ⟨_, exec_authFresh s, fun hnow => ?_, fun hts => ?_, fun hnow => ?_, fun hts => ?_, fun hw => ?_, fun hw => ?_,
    fun hts hnow => ?_, fun c => ⟨_, exec_authFresh _, rfl⟩⟩
  · exact (isFresh_iff_le _ _ _).2 (by omega)
  · exact (isFresh_iff_le _ _ _).2 (by omega)
  · exact (isFresh_eq_false_iff _ _ _).2 (.inl hnow)
  · exact (isFresh_eq_false_iff _ _ _).2 (.inr hts)
  · rw [hw]
    exact isFresh_window_zero _ _
  · rw [hw]
    exact isFresh_window_max _ _
  · rw [hts, hnow]
    exact isFresh_zero_max _

/-! ### VALIDATE (R196) -/

/-- The signature of the packet in BUF stands at bytes 14 to 21 (R126). -/
theorem signatureOf_bufBytes (s : State) : signatureOf (s.bufBytes 22) = loadBytes s.mem 0x10E 8 :=
  signatureOf_loadBytes_22 _

/-- VALIDATE of a packet whose signature is wrong raises AuthError. -/
theorem exec_validate_of_forged {s : State} (hlen : s.bufLen = 26)
    (hsig : sig8 (s.bufBytes 14) ≠ loadBytes s.mem 0x10E 8) :
    exec .validate s = .next { s with bufLen := 0, err := 0x1302 } :=
  exec_of_raises (i := .validate) (.inr (.inl ⟨rfl, hlen, by rwa [signatureOf_bufBytes]⟩))

/-- VALIDATE of a signed packet whose timestamp is not fresh raises StalenessError. -/
theorem exec_validate_of_stale {s : State} {f : Fields} (hlen : s.bufLen = 26)
    (hsig : sig8 (s.bufBytes 14) = loadBytes s.mem 0x10E 8) (hf : fieldsOf (s.bufBytes 26) = f)
    (hstale : isFresh f.ts s.now s.window = false) :
    exec .validate s = .next { s with bufLen := 0, err := 0x1303 } := by
  have hf22 : fieldsOf (s.bufBytes 22) = f := (fieldsOf_loadBytes_22 _).trans hf
  rw [← signatureOf_bufBytes] at hsig
  subst hf22
  exact exec_of_raises (i := .validate) (.inr (.inr ⟨rfl, hlen, hsig, hstale⟩))

/-- VALIDATE of a signed and fresh packet delivers its fields. -/
theorem exec_validate_of_fresh {s : State} {f : Fields} (hlen : s.bufLen = 26)
    (hsig : sig8 (s.bufBytes 14) = loadBytes s.mem 0x10E 8) (hf : fieldsOf (s.bufBytes 26) = f)
    (hfresh : isFresh f.ts s.now s.window = true) :
    exec .validate s = .next { s with fields := f, bufLen := 0, err := 0 } := by
  have hf22 : fieldsOf (s.bufBytes 22) = f := (fieldsOf_loadBytes_22 _).trans hf
  rw [← signatureOf_bufBytes] at hsig
  subst hf22
  exact exec_of_ready (i := .validate) ⟨hlen, hsig, hfresh⟩

/-- Settles O20: each outcome is the raise or the effect its tests select. -/
theorem validateResult : Obligations.ValidateResult := by
  refine ⟨decode_encode .validate, fun s => ⟨fun hlen => exec_of_raises (i := .validate) (.inl ⟨rfl, hlen⟩),
    exec_validate_of_forged, fun hlen hsig hstale => ?_, fun hlen hsig hfresh => ?_⟩⟩
  · refine exec_validate_of_stale hlen hsig rfl (Bool.eq_false_iff.2 fun h => ?_)
    exact absurd ((isFresh_iff _ _ _).1 h) (not_le.2 hstale)
  · exact exec_validate_of_fresh hlen hsig rfl ((isFresh_iff _ _ _).2 hfresh)

/-! ### A sent packet (R200) -/

/-- BUF holds the packet of the fields `f` with their signature, whatever the pad bytes are. -/
def holdsSigned (m : Memory) (f : Fields) : Prop :=
  loadBytes m 0x100 22 = payloadOf f ++ sig8 (payloadOf f)

theorem holdsSigned_of_packet {m : Memory} {f : Fields}
    (h : loadBytes m bufBase 26 = packetOf f (sig8 (payloadOf f))) : holdsSigned m f := by
  rw [holdsSigned, ← loadBytes_take m 0x100 26 22 (by decide), h]
  exact List.take_left' (by simp)

/-- A pad byte is no part of what is signed. -/
theorem holdsSigned_write_pad {m : Memory} {f : Fields} (h : holdsSigned m f) {j : Nat} (hj : 22 ≤ j) (v : Byte) :
    holdsSigned (Memory.write m (0x100 + j) v) f :=
  (loadBytes_write_outside m v (.inr (by omega))).trans h

/-- The fields of a signed packet. -/
theorem fieldsOf_of_holdsSigned {m : Memory} {f : Fields} (h : holdsSigned m f) :
    fieldsOf (loadBytes m 0x100 26) = f := by
  rw [← fieldsOf_loadBytes_22, h, fieldsOf_payloadOf]

/-- The signature of a signed packet is `sig8` of the payload. -/
theorem sig8_of_holdsSigned {m : Memory} {f : Fields} (h : holdsSigned m f) :
    sig8 (loadBytes m 0x100 14) = loadBytes m 0x10E 8 := by
  rw [← signatureOf_loadBytes_22, ← loadBytes_take m 0x100 22 14 (by decide), h, signatureOf,
    List.take_left' (payloadOf_length f), List.drop_left' (payloadOf_length f), List.take_of_length_le (by simp)]

/-- Settles O21: VALIDATE tests the packet in BUF alone, so the field registers and the pad bytes do not matter, and a
changed byte of the signature or of the payload is left to the comparison of the signatures. -/
theorem sendThenValidate : Obligations.SendThenValidate := by
  intro s f
  obtain ⟨m, hrun, hbuf⟩ := runCommands_buildPacket s
  have hm : holdsSigned m s.fields := holdsSigned_of_packet hbuf
  have hsig := sig8_of_holdsSigned hm
  have hf := fieldsOf_of_holdsSigned hm
  refine ⟨_, hrun, rfl, rfl, rfl, fun hfresh => ⟨exec_validate_of_fresh rfl hsig hf hfresh, fun j hj _ v => ?_⟩,
    fun hstale => exec_validate_of_stale rfl hsig hf hstale, fun j hlo hhi v hv => ?_, fun j hj v => ?_⟩
  · have hw := holdsSigned_write_pad hm hj v
    exact exec_validate_of_fresh rfl (sig8_of_holdsSigned hw) (fieldsOf_of_holdsSigned hw) hfresh
  · have hpay : loadBytes (Memory.write m (0x100 + j) v) 0x100 14 = loadBytes m 0x100 14 :=
      loadBytes_write_outside m v (.inr (by omega))
    have hne : loadBytes (Memory.write m (0x100 + j) v) 0x10E 8 ≠ loadBytes m 0x10E 8 :=
      loadBytes_write_ne m (by omega) (by omega) hv
    refine exec_validate_of_forged rfl ?_
    rw [State.bufBytes, hpay, hsig]
    exact hne.symm
  · have hkept : loadBytes (Memory.write m (0x100 + j) v) 0x10E 8 = sig8 (loadBytes m 0x100 14) :=
      (loadBytes_write_outside m v (.inl (by omega))).trans hsig.symm
    obtain ⟨u, hu, -, hauth⟩ := exec_validate_err (s := { s with
      fields := f, mem := Memory.write m (0x100 + j) v, payLen := 14, sigLen := 8, bufLen := 26, err := 0 }) rfl
    refine ⟨u, hu, ?_⟩
    rwa [signatureOf_bufBytes, hkept] at hauth

/-! ### Replay (R199) -/

/-- A VALIDATE that left ERR = 0 has passed its tests. -/
theorem validate_ready_of_err_zero {s t : State} (h : exec .validate s = .next t) (herr : t.err = 0) :
    commandReady .validate s ∧ t = (commandEffect .validate s).succeed := by
  obtain hready | ⟨k, -, rfl⟩ := exec_next_cases h
  · exact hready
  · have hne : errWord Instr.validate.opcode k ≠ 0 := by cases k <;> decide
    exact absurd herr hne

/-- Settles O22: the first VALIDATE leaves the bytes in BUF, and no state records that they were presented. -/
theorem replayIsAccepted : Obligations.ReplayIsAccepted := by
  intro s t n f h herr hnow
  obtain ⟨⟨-, hsig, -⟩, rfl⟩ := validate_ready_of_err_zero h herr
  exact exec_of_ready (i := .validate) ⟨rfl, hsig, (isFresh_iff _ _ _).2 hnow⟩

end Sys2Proof.Machine
end

section
/-! PROOF. The errors' statements: what a raise changes (R212), and which command raises which error, and exactly when
(R210, R211). -/

namespace Sys2Proof.Machine

/-! ### The word of an error (R36, R210) -/

/-- The low byte of an error's word is the code of its kind. -/
theorem errWord_and_255 (op : Byte) (k : ErrKind) : errWord op k &&& 0xFF = k.code.setWidth 32 := by
  have hmask (x : Word) : (x &&& 0xFF).toNat = x.toNat % 2 ^ 8 := Nat.and_two_pow_sub_one_eq_mod x.toNat 8
  have hop : (op.setWidth 32 <<< 8 : Word).toNat % 2 ^ 8 = 0 := by
    rw [BitVec.toNat_shiftLeft, Nat.shiftLeft_eq]
    omega
  apply BitVec.eq_of_toNat_eq
  rw [hmask, errWord, BitVec.toNat_or, Nat.or_mod_two_pow, hop, Nat.zero_or]
  cases k <;> rfl

/-- No error kind has the code 0. -/
theorem ErrKind.code_ne_zero (k : ErrKind) : (k.code.setWidth 32 : Word) ≠ 0 := by cases k <;> decide

/-- No two error kinds have the same code. -/
theorem ErrKind.code_eq_iff (k l : ErrKind) : (k.code.setWidth 32 : Word) = l.code.setWidth 32 ↔ k = l := by
  cases k <;> cases l <;> decide

/-- Settles O48: a command that leaves ERR other than 0 has raised, and the raising state differs from the old one in
VALIDATE's BUF_LEN only. -/
theorem raiseChangesOnlyErr : Obligations.RaiseChangesOnlyErr := by
  intro i s t h herr
  obtain ⟨-, rfl⟩ | ⟨k, -, rfl⟩ := exec_next_cases h
  · exact absurd rfl herr
  · refine ⟨?_, k, rfl⟩
    rw [beforeRaise]
    split <;> rfl

/-! ### The error table (R211) -/

/-- ERR's low byte is the code of an error kind exactly where the command raises that kind. -/
theorem exec_err_code_iff {i : Instr} {s t : State} (h : exec i s = .next t) (k : ErrKind) :
    t.err &&& 0xFF = k.code.setWidth 32 ↔ commandRaises i k s := by
  constructor
  · intro hcode
    obtain ⟨-, rfl⟩ | ⟨l, hl, rfl⟩ := exec_next_cases h
    · have hzero : (commandEffect i s).succeed.err &&& 0xFF = 0 := BitVec.zero_and
      exact absurd (hcode.symm.trans hzero) k.code_ne_zero
    · have hlk : l = k := (ErrKind.code_eq_iff l k).1 ((errWord_and_255 i.opcode l).symm.trans hcode)
      rwa [← hlk]
  · intro hk
    obtain rfl : t = (beforeRaise i s).raiseErr i.opcode k :=
      Host.Outcome.next.inj (h.symm.trans (exec_of_raises hk))
    exact errWord_and_255 i.opcode k

/-- The column FormatError of R211. -/
theorem commandRaises_formatError_iff (i : Instr) (s : State) : commandRaises i .formatError s ↔
    (i = .pktEncode ∧ s.sigLen ≠ 8) ∨ ((i = .pktDecode ∨ i = .frameBuild ∨ i = .validate) ∧ s.bufLen ≠ 26) := by
  cases i <;> simp [commandRaises]

/-- The column AuthError of R211. -/
theorem commandRaises_authError_iff (i : Instr) (s : State) : commandRaises i .authError s ↔
    i = .validate ∧ s.bufLen = 26 ∧ sig8 (s.bufBytes 14) ≠ loadBytes s.mem 0x10E 8 := by
  rw [← signatureOf_bufBytes]
  cases i <;> simp [commandRaises]

/-- The packet's timestamp is not fresh when it lies further from NOW than WINDOW (R194, R196). -/
theorem isFresh_bufBytes_eq_false_iff (s : State) : isFresh (u32 (s.bufBytes 22) 8) s.now s.window = false ↔
    |(s.now.toNat : Int) - ((u32 (s.bufBytes 26) 8).toNat : Int)| > (s.window.toNat : Int) := by
  have hts : u32 (s.bufBytes 22) 8 = u32 (s.bufBytes 26) 8 := congrArg Fields.ts (fieldsOf_loadBytes_22 s.mem)
  rw [hts, ← Bool.not_eq_true, isFresh_iff, not_le]

/-- The column StalenessError of R211. -/
theorem commandRaises_stalenessError_iff (i : Instr) (s : State) : commandRaises i .stalenessError s ↔
    i = .validate ∧ s.bufLen = 26 ∧ sig8 (s.bufBytes 14) = loadBytes s.mem 0x10E 8 ∧
      |(s.now.toNat : Int) - ((u32 (s.bufBytes 26) 8).toNat : Int)| > (s.window.toNat : Int) := by
  rw [← signatureOf_bufBytes, ← isFresh_bufBytes_eq_false_iff]
  cases i <;> simp [commandRaises]

/-- The column DeviceError of R211. -/
theorem commandRaises_deviceError_iff (i : Instr) (s : State) : commandRaises i .deviceError s ↔
    (i = .txSend ∧ s.txBusy = false ∧ s.env.playOk = false) ∨
      (i = .rxStart ∧ s.rxState ≠ .listening ∧ s.env.capOk = false) := by
  cases i <;> simp [commandRaises]

/-- The column CmdError of R211. -/
theorem commandRaises_cmdError_iff (i : Instr) (s : State) : commandRaises i .cmdError s ↔
    (i = .txSend ∧ s.txBusy = true) ∨ (i = .rxStart ∧ s.rxState = .listening) ∨
      (i = .candLoad ∧ s.candValid = false) := by
  cases i <;> simp [commandRaises]

/-- Settles O49: each column of the table is where a command raises its kind. -/
theorem errorTable : Obligations.ErrorTable := fun i s _ h =>
  ⟨(exec_err_code_iff h .formatError).trans (commandRaises_formatError_iff i s),
    (exec_err_code_iff h .authError).trans (commandRaises_authError_iff i s),
    (exec_err_code_iff h .stalenessError).trans (commandRaises_stalenessError_iff i s),
    (exec_err_code_iff h .deviceError).trans (commandRaises_deviceError_iff i s),
    (exec_err_code_iff h .cmdError).trans (commandRaises_cmdError_iff i s)⟩

end Sys2Proof.Machine
end

section
/-! PROOF. Reset's statements: what the reset step answers (R240 to R242), and what the first command after reset meets
(R243, R244). -/

namespace Sys2Proof.Machine

/-- The reset step as one update of the reset state (R240 to R242). -/
theorem resetStep_eq (s : State) : resetStep s = { State.reset with
    env := s.env, pending := s.pending
    out := { s.out with captures := s.out.captures ++ if s.captureHeld then [.release] else [] } } := by
  rw [resetStep, State.releaseCapture_eq]
  rfl

/-- Settles O54: the reset event is the reset step, which keeps of the old state only its environment, its outputs with the
release, and its events. -/
theorem resetStepResult : Obligations.ResetStepResult := fun s => congrArg Host.Outcome.next (resetStep_eq s)

/-- The reset state has no signature to encode, no packet to decode, frame or validate, and no candidate to load. -/
theorem commandRaises_reset :
    commandRaises .pktEncode .formatError State.reset ∧ commandRaises .pktDecode .formatError State.reset ∧
    commandRaises .frameBuild .formatError State.reset ∧ commandRaises .validate .formatError State.reset ∧
    commandRaises .candLoad .cmdError State.reset := by
  have hsig : State.reset.sigLen ≠ 8 := by decide
  have hbuf : State.reset.bufLen ≠ 26 := by decide
  exact ⟨⟨rfl, hsig⟩, ⟨rfl, hbuf⟩, ⟨rfl, hbuf⟩, .inl ⟨rfl, hbuf⟩, rfl, rfl⟩

/-- After reset both agents are idle, both devices answer, and no duration is zero. -/
theorem commandReady_reset : commandReady .txSend State.reset ∧ commandReady .rxStart State.reset := by
  have hbitdur : State.reset.txBitdur ≠ 0 := by decide
  have hidle : State.reset.rxState ≠ .listening := by decide
  have hperiod : State.reset.rxPeriod ≠ 0 := by decide
  exact ⟨⟨rfl, rfl, hbitdur⟩, hidle, rfl, hperiod⟩

/-- Settles O57: the five commands that need a signature, a packet or a candidate raise; the other three do their effect,
and with no bit to send TX_SEND's schedule has no burst. -/
theorem firstCommandAfterReset : Obligations.FirstCommandAfterReset := by
  obtain ⟨hencode, hdecode, hframe, hvalidate, hload⟩ := commandRaises_reset
  obtain ⟨hsend, hstart⟩ := commandReady_reset
  exact ⟨⟨_, exec_payPack _, rfl, rfl⟩, exec_of_raises hencode, exec_of_raises hdecode, exec_of_raises hframe,
    exec_of_raises hvalidate, exec_of_raises hload, ⟨_, exec_of_ready hsend, rfl, rfl, rfl⟩,
    _, exec_of_ready hstart, rfl, rfl, rfl⟩

end Sys2Proof.Machine
end
